-- ==== Sys2Proof/Word.lean ====
section
/-! DEFINITION. The machine's word types (spec/00_scope.md R5, R8; spec/10_state.md R24): every value is an
unsigned bit pattern, and nothing in this hardware is ever read as a signed number. -/

namespace Sys2Proof

/-- A register, a timer, a memory cell, an immediate `nn` (R5 `REG_W`). -/
abbrev Byte := BitVec 8

/-- An instruction word (R5 `WORD_W`), and `pc`, `I` and a call-stack entry (R6 `ADDR_W` = 16, D1). -/
abbrev Word := BitVec 16

/-- The 12-bit address field `nnn` of an instruction word (30_encoding.md R81). -/
abbrev Addr12 := BitVec 12

/-- The 4-bit field `n` of an instruction word, the height of a sprite (R81). -/
abbrev Nibble := BitVec 4

/-- The index of a general register `V0` to `VF`, and the number of a key (10_state.md R21, R29). -/
abbrev Index16 := Fin 16

end Sys2Proof
end

