-- ==== Sys2Proof/Syntax.lean ====
section
/-! DEFINITION. The decoded operations, one constructor per row of spec/opcode_table.json, in the table's order, each with the
fields that 30_encoding.md R92 says it keeps. -/

namespace Sys2Proof

/-- The closed variant `Operation` (30_encoding.md R84, R92). The low nibble `n` of `5xyn` and `9xyn` is kept by
neither (R87, R92); `Bnnn` keeps `x`, the top nibble of its own `nnn`, as well (R84, R92). -/
inductive Instr where
  | cls                                        -- 00E0 CLS
  | ret                                        -- 00EE RET
  | jp (nnn : Addr12)                          -- 1nnn JP nnn
  | call (nnn : Addr12)                        -- 2nnn CALL nnn
  | seImm (x : Index16) (nn : Byte)            -- 3xnn SE Vx, nn
  | sneImm (x : Index16) (nn : Byte)           -- 4xnn SNE Vx, nn
  | seReg (x y : Index16)                      -- 5xyn SE Vx, Vy
  | ldImm (x : Index16) (nn : Byte)            -- 6xnn LD Vx, nn
  | addImm (x : Index16) (nn : Byte)           -- 7xnn ADD Vx, nn
  | ldReg (x y : Index16)                      -- 8xy0 LD Vx, Vy
  | orReg (x y : Index16)                      -- 8xy1 OR Vx, Vy
  | andReg (x y : Index16)                     -- 8xy2 AND Vx, Vy
  | xorReg (x y : Index16)                     -- 8xy3 XOR Vx, Vy
  | addReg (x y : Index16)                     -- 8xy4 ADD Vx, Vy
  | sub (x y : Index16)                        -- 8xy5 SUB Vx, Vy
  | shr (x y : Index16)                        -- 8xy6 SHR Vx, Vy
  | subn (x y : Index16)                       -- 8xy7 SUBN Vx, Vy
  | shl (x y : Index16)                        -- 8xyE SHL Vx, Vy
  | sneReg (x y : Index16)                     -- 9xyn SNE Vx, Vy
  | ldI (nnn : Addr12)                         -- Annn LD I, nnn
  | jpOff (nnn : Addr12) (x : Index16)         -- Bnnn JP V0, nnn
  | rnd (x : Index16) (nn : Byte)              -- Cxnn RND Vx, nn
  | drw (x y : Index16) (n : Nibble)           -- Dxyn DRW Vx, Vy, n
  | skp (x : Index16)                          -- Ex9E SKP Vx
  | sknp (x : Index16)                         -- ExA1 SKNP Vx
  | ldFromDt (x : Index16)                     -- Fx07 LD Vx, DT
  | ldKey (x : Index16)                        -- Fx0A LD Vx, K
  | ldDt (x : Index16)                         -- Fx15 LD DT, Vx
  | ldSt (x : Index16)                         -- Fx18 LD ST, Vx
  | addI (x : Index16)                         -- Fx1E ADD I, Vx
  | ldFont (x : Index16)                       -- Fx29 LD F, Vx
  | bcd (x : Index16)                          -- Fx33 LD B, Vx
  | store (x : Index16)                        -- Fx55 LD [I], Vx
  | load (x : Index16)                         -- Fx65 LD Vx, [I]
  deriving DecidableEq, Repr

end Sys2Proof
end

