-- ==== Sys2Proof/WellFormed.lean ====
section
/-! DEFINITION. Which terms of `Instr` are instructions. The types of the fields already bound every operand (a 4-bit slice is a
`Fin 16`, 30_encoding.md R81); the one relation between fields is that of `Bnnn`, whose `x` is the top nibble of its `nnn`. -/

namespace Sys2Proof

/-- Both fields of `Bnnn` are slices of one word, and they overlap: `x = w[11:8]` is `nnn[11:8]` (R81, R82, R138). -/
def jpOffFieldsAgree (nnn : Addr12) (x : Index16) : Bool :=
  x.val == nnn.toNat / 256

/-- The terms that some word of the opcode table decodes to. -/
def Instr.wf : Instr → Bool
  | .jpOff nnn x => jpOffFieldsAgree nnn x
  | .cls | .ret => true
  | .jp _ | .call _ | .ldI _ => true
  | .seImm _ _ | .sneImm _ _ | .ldImm _ _ | .addImm _ _ | .rnd _ _ => true
  | .seReg _ _ | .sneReg _ _ | .ldReg _ _ => true
  | .orReg _ _ | .andReg _ _ | .xorReg _ _ => true
  | .addReg _ _ | .sub _ _ | .subn _ _ | .shr _ _ | .shl _ _ => true
  | .drw _ _ _ => true
  | .skp _ | .sknp _ | .ldFromDt _ | .ldKey _ | .ldDt _ | .ldSt _ => true
  | .addI _ | .ldFont _ | .bcd _ | .store _ | .load _ => true

end Sys2Proof
end

