-- ==== Sys2Proof/Decode.lean ====
section
/-! DEFINITION. The decoder and the encoder (spec/30_encoding.md): the fields of a word, the dispatch of R84, total on every word
and rejecting by name, and the inverse of the table with unused bits zero (R92). -/

namespace Sys2Proof

/-! ## The fields of a word (R81) -/

/-- `op = w[15:12]`. -/
def fieldOp (w : Word) : Nibble := w.extractLsb' 12 4

/-- `x = w[11:8]`, a register index. -/
def fieldX (w : Word) : Index16 := (w.extractLsb' 8 4).toFin

/-- `y = w[7:4]`, a register index. -/
def fieldY (w : Word) : Index16 := (w.extractLsb' 4 4).toFin

/-- `n = w[3:0]`. -/
def fieldN (w : Word) : Nibble := w.extractLsb' 0 4

/-- `nn = w[7:0]`. -/
def fieldNN (w : Word) : Byte := w.extractLsb' 0 8

/-- `nnn = w[11:0]`. -/
def fieldNNN (w : Word) : Addr12 := w.extractLsb' 0 12

/-! ## Decoding -/

/-- Why the decoder refuses. -/
inductive DecodeError where
  /-- A word outside the dispatch table, with the raw word (R86). -/
  | unsupportedOpcode (w : Word)
  /-- Fewer than two bytes: no word can be formed (no fetch ever hands the decoder such a list). -/
  | truncated
  deriving DecidableEq, Repr

/-- Family 0x0 compares all 12 bits of `nnn` (R84, R87). -/
def decodeFamily0 (w : Word) : Except DecodeError Instr :=
  match (fieldNNN w).toNat with
  | 0x0E0 => .ok .cls
  | 0x0EE => .ok .ret
  | _ => .error (.unsupportedOpcode w)

/-- Family 0x8: the sub-key is `n` (R84). -/
def decodeFamily8 (w : Word) : Except DecodeError Instr :=
  match (fieldN w).toNat with
  | 0x0 => .ok (.ldReg (fieldX w) (fieldY w))
  | 0x1 => .ok (.orReg (fieldX w) (fieldY w))
  | 0x2 => .ok (.andReg (fieldX w) (fieldY w))
  | 0x3 => .ok (.xorReg (fieldX w) (fieldY w))
  | 0x4 => .ok (.addReg (fieldX w) (fieldY w))
  | 0x5 => .ok (.sub (fieldX w) (fieldY w))
  | 0x6 => .ok (.shr (fieldX w) (fieldY w))
  | 0x7 => .ok (.subn (fieldX w) (fieldY w))
  | 0xE => .ok (.shl (fieldX w) (fieldY w))
  | _ => .error (.unsupportedOpcode w)

/-- Family 0xE: the sub-key is `nn` (R84). -/
def decodeFamilyE (w : Word) : Except DecodeError Instr :=
  match (fieldNN w).toNat with
  | 0x9E => .ok (.skp (fieldX w))
  | 0xA1 => .ok (.sknp (fieldX w))
  | _ => .error (.unsupportedOpcode w)

/-- Family 0xF: the sub-key is `nn` (R84). -/
def decodeFamilyF (w : Word) : Except DecodeError Instr :=
  match (fieldNN w).toNat with
  | 0x07 => .ok (.ldFromDt (fieldX w))
  | 0x0A => .ok (.ldKey (fieldX w))
  | 0x15 => .ok (.ldDt (fieldX w))
  | 0x18 => .ok (.ldSt (fieldX w))
  | 0x1E => .ok (.addI (fieldX w))
  | 0x29 => .ok (.ldFont (fieldX w))
  | 0x33 => .ok (.bcd (fieldX w))
  | 0x55 => .ok (.store (fieldX w))
  | 0x65 => .ok (.load (fieldX w))
  | _ => .error (.unsupportedOpcode w)

/-- `Decode(w)` of R84: the opcode first, then the sub-key where the top nibble is ambiguous. In families 0x5 and
0x9 the nibble `n` is not examined (R87, the spec's decision D10; log entry 17). -/
def decodeWord (w : Word) : Except DecodeError Instr :=
  match (fieldOp w).toNat with
  | 0x0 => decodeFamily0 w
  | 0x1 => .ok (.jp (fieldNNN w))
  | 0x2 => .ok (.call (fieldNNN w))
  | 0x3 => .ok (.seImm (fieldX w) (fieldNN w))
  | 0x4 => .ok (.sneImm (fieldX w) (fieldNN w))
  | 0x5 => .ok (.seReg (fieldX w) (fieldY w))
  | 0x6 => .ok (.ldImm (fieldX w) (fieldNN w))
  | 0x7 => .ok (.addImm (fieldX w) (fieldNN w))
  | 0x8 => decodeFamily8 w
  | 0x9 => .ok (.sneReg (fieldX w) (fieldY w))
  | 0xA => .ok (.ldI (fieldNNN w))
  | 0xB => .ok (.jpOff (fieldNNN w) (fieldX w))
  | 0xC => .ok (.rnd (fieldX w) (fieldNN w))
  | 0xD => .ok (.drw (fieldX w) (fieldY w) (fieldN w))
  | 0xE => decodeFamilyE w
  | _ => decodeFamilyF w

/-- Big-endian: the byte at the lower address is bits 15 to 8 (20_memory.md R57). -/
def wordOfBytes (high low : Byte) : Word := high ++ low

/-- The two bytes of a word as memory holds them, the high byte at the lower address (R57, R91). -/
def bytesOfWord (w : Word) : List Byte := [w.extractLsb' 8 8, w.extractLsb' 0 8]

/-- Decoding from a byte stream: every instruction is two bytes (R80, R89), and the rest of the stream is returned. -/
def decodeBytes : List Byte → Except DecodeError (Instr × List Byte)
  | high :: low :: rest =>
    match decodeWord (wordOfBytes high low) with
    | .ok i => .ok (i, rest)
    | .error e => .error e
  | _ => .error .truncated

/-! ## Encoding (R82, R85) -/

/-- Format NNN: `op` and a 12-bit address. -/
def wordNNN (op : Nibble) (nnn : Addr12) : Word := op ++ nnn

/-- Format XNN: `op`, a register index and a byte. Format XKK is the same with a sub-key for the byte. -/
def wordXNN (op : Nibble) (x : Index16) (nn : Byte) : Word :=
  op ++ (BitVec.ofFin (w := 4) x ++ nn : BitVec 12)

/-- Formats XYN and XYK: `op`, two register indices and a nibble. -/
def wordXYN (op : Nibble) (x y : Index16) (n : Nibble) : Word :=
  op ++ (BitVec.ofFin (w := 4) x ++ (BitVec.ofFin (w := 4) y ++ n : BitVec 8) : BitVec 12)

/-- The word of an instruction: the inverse of the table of R85 with unused bits zero (R92). The `x` that `Bnnn`
keeps is no field of its own in the word: it is the top nibble of `nnn`. -/
def encode : Instr → Word
  | .cls => 0x00E0#16
  | .ret => 0x00EE#16
  | .jp nnn => wordNNN 0x1#4 nnn
  | .call nnn => wordNNN 0x2#4 nnn
  | .seImm x nn => wordXNN 0x3#4 x nn
  | .sneImm x nn => wordXNN 0x4#4 x nn
  | .seReg x y => wordXYN 0x5#4 x y 0x0#4
  | .ldImm x nn => wordXNN 0x6#4 x nn
  | .addImm x nn => wordXNN 0x7#4 x nn
  | .ldReg x y => wordXYN 0x8#4 x y 0x0#4
  | .orReg x y => wordXYN 0x8#4 x y 0x1#4
  | .andReg x y => wordXYN 0x8#4 x y 0x2#4
  | .xorReg x y => wordXYN 0x8#4 x y 0x3#4
  | .addReg x y => wordXYN 0x8#4 x y 0x4#4
  | .sub x y => wordXYN 0x8#4 x y 0x5#4
  | .shr x y => wordXYN 0x8#4 x y 0x6#4
  | .subn x y => wordXYN 0x8#4 x y 0x7#4
  | .shl x y => wordXYN 0x8#4 x y 0xE#4
  | .sneReg x y => wordXYN 0x9#4 x y 0x0#4
  | .ldI nnn => wordNNN 0xA#4 nnn
  | .jpOff nnn _ => wordNNN 0xB#4 nnn
  | .rnd x nn => wordXNN 0xC#4 x nn
  | .drw x y n => wordXYN 0xD#4 x y n
  | .skp x => wordXNN 0xE#4 x 0x9E#8
  | .sknp x => wordXNN 0xE#4 x 0xA1#8
  | .ldFromDt x => wordXNN 0xF#4 x 0x07#8
  | .ldKey x => wordXNN 0xF#4 x 0x0A#8
  | .ldDt x => wordXNN 0xF#4 x 0x15#8
  | .ldSt x => wordXNN 0xF#4 x 0x18#8
  | .addI x => wordXNN 0xF#4 x 0x1E#8
  | .ldFont x => wordXNN 0xF#4 x 0x29#8
  | .bcd x => wordXNN 0xF#4 x 0x33#8
  | .store x => wordXNN 0xF#4 x 0x55#8
  | .load x => wordXNN 0xF#4 x 0x65#8

/-! ## The host's view of the decoder -/

/-- The bytes, as memory holds them, of an instruction whose bits `nbits - 1 .. 0` are those of `w` and whose bits
above are zero; an instruction of this hardware is one 16-bit word. -/
def tableWordBytes (nbits w : Nat) : List Byte := bytesOfWord (BitVec.ofNat 16 (w % 2 ^ nbits))

/-- The instruction the decoder reads from a word numbered as spec/opcode_table.json numbers it. -/
def decodeTableWord (nbits w : Nat) : Option Instr :=
  match decodeBytes (tableWordBytes nbits w) with
  | .ok (i, _) => some i
  | .error _ => none

end Sys2Proof
end

