-- ==== Sys2Proof/Config.lean ====
section
/-! DEFINITION. What a session fixes (spec/00_scope.md R6) and the free values. The defaults stand in
Sys2Proof/Machine/Defaults.lean. -/

namespace Sys2Proof

/-- `Q_SHIFT_SRC`: which register `8xy6` and `8xyE` shift (R6, D13). -/
inductive ShiftSrc where
  | vy
  | vx
  deriving DecidableEq, Repr

/-- `Q_JUMP_REG`: which register `Bnnn` adds (R6, D13). -/
inductive JumpReg where
  | v0
  | vx
  deriving DecidableEq, Repr

/-- `Q_ORIGIN`: whether the origin of a sprite is reduced modulo the display size (R6, D13). -/
inductive Origin where
  | wrap
  | clip
  deriving DecidableEq, Repr

/-- The configuration record of R6. A session's configuration is fixed before `Reset` (40_execution_cycle.md R112) and no
step changes it (10_state.md R32(a)); it stands in `State` so that a statement over all states covers every
configuration (log entry 1). -/
structure Config where
  /-- `Q_SHIFT_SRC`. -/
  shiftSrc : ShiftSrc
  /-- `Q_INDEX_INC`: whether `Fx55` and `Fx65` add `x + 1` to `I`. -/
  indexInc : Bool
  /-- `Q_JUMP_REG`. -/
  jumpReg : JumpReg
  /-- `Q_ORIGIN`. -/
  origin : Origin
  /-- `FONT_DATA`, the 80 bytes of the font table (20_memory.md R56). -/
  fontData : List Byte
  /-- `FRAME_RATE`, frames a second; 0 is refused (40_execution_cycle.md R109). -/
  frameRate : Nat
  /-- `IPS`, instructions a second. -/
  ips : Nat
  /-- `INSTR_PER_FRAME`, cycles a frame: a parameter of its own, `floor(IPS / FRAME_RATE)` where nothing else is said
  (R6, 40_execution_cycle.md R109, D18; log entry 23). -/
  instrPerFrame : Nat := ips / frameRate
  /-- `KEYS0`, the keypad when the core starts (10_state.md R35). -/
  keys0 : Vector Bool 16
  /-- `RESET_V`, the value of every `V[i]` at reset (10_state.md R35). -/
  resetV : Byte
  /-- `RESET_FILL`, the value at reset of every memory byte outside the font table (10_state.md R35). -/
  resetFill : Byte
  deriving DecidableEq, Repr

/-- `Draw8()`: the byte that the `k`-th execution of `Cxnn` draws (40_execution_cycle.md R114). A free value: no
body, so nothing is known of it, and a statement holds for every byte drawn (log entry 12). -/
opaque Config.freeByte : Nat → Byte

end Sys2Proof
end

