-- ==== Sys2Proof/Machine/Defaults.lean ====
section
/-! DEFINITION. The constants of spec/00_scope.md R5, the default configuration of R6, and what memory holds at reset
(spec/10_state.md R35, spec/20_memory.md R51, R56). -/

namespace Sys2Proof.Machine

/-- `MEM_SIZE`: the valid addresses are 0 to 4095 (R5). -/
def memSize : Nat := 4096

/-- `PROG_BASE`: where a program is loaded, and the reset value of `pc` (R5). -/
def progBase : Nat := 0x200

/-- `PROG_MAX`: the longest program `LoadProgram` accepts (R5). -/
def progMax : Nat := 3584

/-- `FONT_ADDR`: the first byte of the font table (R5). -/
def fontAddr : Nat := 0x050

/-- `FONT_LEN`: the bytes of the font table (R5). -/
def fontLen : Nat := 80

/-- `FLAG_REG`: the index of `VF` (R5, 10_state.md R23). -/
def flagReg : Index16 := 15

/-- The default `FONT_DATA`: one row a glyph, digits 0 to F (20_memory.md R56, from general knowledge by the spec's own
mark G1; log entry 5). -/
def defaultFont : List Byte :=
  [0xF0, 0x90, 0x90, 0x90, 0xF0,
   0x20, 0x60, 0x20, 0x20, 0x70,
   0xF0, 0x10, 0xF0, 0x80, 0xF0,
   0xF0, 0x10, 0xF0, 0x10, 0xF0,
   0x90, 0x90, 0xF0, 0x10, 0x10,
   0xF0, 0x80, 0xF0, 0x10, 0xF0,
   0xF0, 0x80, 0xF0, 0x90, 0xF0,
   0xF0, 0x10, 0x20, 0x40, 0x40] ++
  [0xF0, 0x90, 0xF0, 0x90, 0xF0,
   0xF0, 0x90, 0xF0, 0x10, 0xF0,
   0xF0, 0x90, 0xF0, 0x90, 0x90,
   0xE0, 0x90, 0xE0, 0x90, 0xE0,
   0xF0, 0x80, 0x80, 0x80, 0xF0,
   0xE0, 0x90, 0x90, 0x90, 0xE0,
   0xF0, 0x80, 0xF0, 0x80, 0xF0,
   0xF0, 0x80, 0xF0, 0x80, 0x80]

/-- The default configuration of R6. `FRAME_RATE`, `IPS` and `KEYS0` have no default in the spec: the values here
are the model's, DESIGN CHOICE, unsafe (log entries 2 and 3). `INSTR_PER_FRAME` is its default, the floor of the quotient. -/
def defaultConfig : Config where
  shiftSrc := .vy
  indexInc := true
  jumpReg := .v0
  origin := .wrap
  fontData := defaultFont
  frameRate := 60
  ips := 600
  keys0 := Vector.replicate 16 false
  resetV := 0x00
  resetFill := 0x00

/-- What a byte of memory reads as when nothing has written it: the reset contents, `FONT_DATA` in 0x050 to 0x09F and
`RESET_FILL` everywhere else (10_state.md R35; log entry 13). -/
def blankByte (c : Config) (a : Nat) : Byte :=
  if fontAddr ≤ a ∧ a < fontAddr + fontLen then c.fontData.getD (a - fontAddr) c.resetFill else c.resetFill

/-- The cycles of a frame's batch, `INSTR_PER_FRAME`; none where `FRAME_RATE = 0`, which is refused as a configuration
(40_execution_cycle.md R109). -/
def frameBatch (c : Config) : Option Nat :=
  if c.frameRate = 0 then none else some c.instrPerFrame

/-- The configurations of R6: `FONT_DATA` has 80 bytes and `FRAME_RATE` is positive. -/
def configWf (c : Config) : Bool :=
  c.fontData.length == fontLen && c.frameRate != 0

end Sys2Proof.Machine
end

