-- ==== Sys2Proof/Machine/State.lean ====
section
/-! DEFINITION. The state of the core, everything that spec/10_state.md R20 lists and nothing hidden (R34), with the session's
configuration and the model's bookkeeping of the frame loop and of the host; the reasons a step can stop; the machine
right after reset (R35). -/

namespace Sys2Proof.Machine

/-- The six error kinds and what each carries (60_exceptions.md R240, D17; log entry 14). -/
inductive Error where
  /-- A span that passes address 4095; the first out-of-range address (R241). -/
  | outOfBoundsMemoryAccess (addr : Nat)
  /-- `LoadProgram` with more than 3584 bytes (R242); never in the latch of a running core. -/
  | programTooLarge
  /-- `00EE` with an empty stack (R244). -/
  | stackUnderflow
  /-- A word outside the dispatch table, the raw word (R243). -/
  | unsupportedOpcode (w : Word)
  /-- Defensive only: never raised, since every register index is a 4-bit slice (R245). -/
  | invalidRegisterIndex
  /-- `Ex9E` or `ExA1` with `V[x] > 15`; the value of `V[x]` (R246). -/
  | invalidKeyIndex (k : Byte)
  deriving DecidableEq, Repr

/-- `run` (10_state.md R31): "`Idle → Running` (no further states...)". -/
inductive RunState where
  | idle
  | running
  deriving DecidableEq, Repr

/-- Where the frame loop stands (40_execution_cycle.md R108). Bookkeeping that no instruction reads (10_state.md R32(e)). -/
inductive Phase where
  /-- The next move is the frame's `Tick`. -/
  | tick
  /-- The batch: so many `Step`s are left; with none left, the next move is the frame's end. -/
  | batch (left : Nat)
  /-- The host's stop signal was seen at a frame boundary: the run has ended (R113). -/
  | over
  deriving DecidableEq, Repr

/-- The framebuffer: 32 rows, row 0 at the top, of 64 pixels, column 0 at the left; true is set (10_state.md R28). -/
abbrev Framebuffer := Vector (Vector Bool 64) 32

/-- What the host is handed at the end of a frame: the snapshot and whether the tone is on (40_execution_cycle.md R111). -/
structure FrameOutput where
  fb : Framebuffer
  tone : Bool
  deriving DecidableEq, Repr

/-- What the host may do to a created core (40_execution_cycle.md R112). -/
inductive HostEvent where
  /-- `LoadProgram(bytes)` (20_memory.md R55). -/
  | loadProgram (bytes : List Byte)
  /-- `Start` (R101). -/
  | start
  /-- `SetKey(k, b)` (R115). -/
  | setKey (k : Index16) (pressed : Bool)
  /-- The level of the stop signal, sampled at the end of each frame (R113; log entry 10). -/
  | setStop (level : Bool)
  deriving DecidableEq, Repr

/-- One entry of the host's plan: an event now, or leaving the core to make one move of its own (R115; log entry 8). -/
inductive HostMove where
  | event (e : HostEvent)
  | yield
  deriving DecidableEq, Repr

/-- The bytes of memory that differ from the reset contents, by address, strictly rising, none equal to what an unlisted
address reads as (log entry 13). The operations over it are in Machine/Ops.lean. -/
abbrev Memory := List Host.Cell

/-- The machine (10_state.md R20), the configuration (00_scope.md R6) and the model's own bookkeeping. -/
structure State where
  /-- The session's configuration (00_scope.md R6); no step writes it (10_state.md R32(a)). -/
  config : Config
  /-- `V0` to `VF` (R21); `VF` is the flag (R23). -/
  v : Vector Byte 16
  /-- `I` (R25). -/
  index : Word
  /-- `pc` (R24); during execute it holds the post-fetch counter (40_execution_cycle.md R104). -/
  pc : Word
  /-- The call stack, the last element is the top (R26, 00_scope.md R9). -/
  stack : List Word
  /-- `DT` (R27). -/
  dt : Byte
  /-- `ST` (R27). -/
  st : Byte
  /-- `fb` (R28). -/
  fb : Framebuffer
  /-- `key`, true is pressed (R29). -/
  keys : Vector Bool 16
  /-- `mem` (R30). -/
  mem : Memory
  /-- `run` (R31). -/
  run : RunState
  /-- `fault`, set by `raise` and never cleared (R31). -/
  fault : Option Error
  /-- The position inside the frame (R32(e)). -/
  phase : Phase
  /-- The host's stop signal (R32(f)). -/
  stop : Bool
  /-- What the host was last handed, none before the first frame has ended (40_execution_cycle.md R111). -/
  output : Option FrameOutput
  /-- What the host does from here on, oldest first; when it is empty the host does nothing more (40_execution_cycle.md R115). -/
  host : List HostMove
  /-- How many random bytes have been drawn (40_execution_cycle.md R114; log entry 12). -/
  draws : Nat
  deriving DecidableEq, Repr

/-- Why the machine stops: no next state exists. -/
inductive Fault where
  /-- Raised by the step of a machine whose error latch is set: while it is, nothing is enabled, the session is over
  (60_exceptions.md R247, 40_execution_cycle.md R101). Safe: the machine stops as the spec says it does. -/
  | sessionOver (e : Error)
  /-- Raised by the host's `LoadProgram` with more than 3584 bytes: the error is reported, nothing is changed and the session
  does not start (20_memory.md R55, 60_exceptions.md R242). Safe. -/
  | programTooLarge
  /-- Raised by the step of a machine whose run the host's stop signal has ended (40_execution_cycle.md R113(b)). Safe. -/
  | stoppedByHost
  deriving DecidableEq, Repr

/-- Why a step has no meaning. -/
inductive Refusal where
  /-- Raised by `exec` for an instruction that has no meaning yet. Safe; no arm of this model answers with it. -/
  | notModelled (mnemonic : String)
  /-- Raised by a host event outside the states that enable it, `LoadProgram` or `Start` of a running core: there is no such
  move (40_execution_cycle.md R101, R112; D22, D28). Safe. -/
  | hostEventNotEnabled
  /-- Raised by `Start` and by the frame loop under `FRAME_RATE = 0`, which is refused as a configuration
  (40_execution_cycle.md R109). Safe. -/
  | frameRateZero
  deriving DecidableEq, Repr

/-- `Reset` under a configuration: the creation of the state, every part at once (10_state.md R35, 70_reset_and_hazards.md R270). -/
def State.resetWith (c : Config) : State where
  config := c
  v := Vector.replicate 16 c.resetV
  index := 0
  pc := BitVec.ofNat 16 progBase
  stack := []
  dt := 0
  st := 0
  fb := Vector.replicate 32 (Vector.replicate 64 false)
  keys := c.keys0
  mem := []
  run := .idle
  fault := none
  phase := .tick
  stop := false
  output := none
  host := []
  draws := 0

/-- The machine right after reset under the default configuration (10_state.md R35, 00_scope.md R6). -/
def State.reset : State := State.resetWith defaultConfig

end Sys2Proof.Machine
end

