-- ==== Sys2Proof/Machine/Ops.lean ====
section
/-! DEFINITION. The named operations: memory and its bounds check (spec/20_memory.md), the registers, the call stack, the keypad,
raising an error (spec/60_exceptions.md R247; this hardware has no handler and so no return from one, R251), the fetch
(spec/40_execution_cycle.md R103, R104). -/

namespace Sys2Proof.Machine

/-- The outcome of a step. -/
abbrev Result := Host.Outcome State Fault Refusal

/-! ## Raising an error -/

/-- `raise E(info)`: the latch is set and the step ends, nothing else changes; the machine does nothing after
(60_exceptions.md R247, R248; log entry 6). This is the one place an error is taken. -/
def raise (e : Error) (s : State) : Result :=
  .next { s with fault := some e }

/-! ## Memory -/

/-- The byte at an address, `blank` being what an unlisted address reads as. -/
def Memory.read (blank : Nat → Byte) : Memory → Nat → Byte
  | [], a => blank a
  | (k, b) :: rest, a => if k = a then b else Memory.read blank rest a

/-- The memory with one byte changed, in the canonical form: the entry goes where its address belongs, and writing what
an unlisted address reads as leaves no entry. -/
def Memory.write (blank : Nat → Byte) : Memory → Nat → Byte → Memory
  | [], a, b => if b = blank a then [] else [(a, b)]
  | (k, c) :: rest, a, b =>
    if a < k then
      if b = blank a then (k, c) :: rest else (a, b) :: (k, c) :: rest
    else if a = k then
      if b = blank a then rest else (a, b) :: rest
    else (k, c) :: Memory.write blank rest a b

/-- Bytes written one after another from an address up, the first at the address itself (R53). -/
def Memory.writeBytes (blank : Nat → Byte) : Memory → Nat → List Byte → Memory
  | m, _, [] => m
  | m, a, b :: bs => Memory.writeBytes blank (Memory.write blank m a b) (a + 1) bs

/-- Every entry is at an address from `low` up to 4095, the addresses rise strictly, and no entry holds what an unlisted
address reads as. -/
def Memory.wfFrom (blank : Nat → Byte) : Nat → Memory → Bool
  | _, [] => true
  | low, (k, b) :: rest => low ≤ k && k < memSize && b != blank k && Memory.wfFrom blank (k + 1) rest

/-- The canonical form of memory under a configuration. -/
def Memory.wf (c : Config) (m : Memory) : Bool :=
  Memory.wfFrom (blankByte c) 0 m

/-- `mem[a]` (10_state.md R30). -/
def State.byteAt (s : State) (a : Nat) : Byte :=
  Memory.read (blankByte s.config) s.mem a

/-- The bounds check of every access: the whole span must lie in 0 to 4095; addresses are naturals, so nothing wraps
(20_memory.md R53, R54, R68). -/
def spanInBounds (a n : Nat) : Bool := a + n ≤ memSize

/-- The error of a span that starts at `a` and passes address 4095, with the first out-of-range address
(60_exceptions.md R241, D17). -/
def boundsError (a : Nat) : Error := .outOfBoundsMemoryAccess (max a memSize)

/-- The bytes of a span, lowest address first, without a check. -/
def State.bytesAt (s : State) : Nat → Nat → List Byte
  | _, 0 => []
  | a, n + 1 => s.byteAt a :: s.bytesAt (a + 1) n

/-- `MemRead(a, n)` (20_memory.md R52, R54). -/
def State.memRead (s : State) (a n : Nat) : Except Error (List Byte) :=
  if spanInBounds a n then .ok (s.bytesAt a n) else .error (boundsError a)

/-- The state with bytes written from `a` up, without a check. -/
def State.writeBytes (s : State) (a : Nat) (bs : List Byte) : State :=
  { s with mem := Memory.writeBytes (blankByte s.config) s.mem a bs }

/-- `MemWrite(a, n, bytes)`: all the bytes are written or none (20_memory.md R53). There is no write protection (R61). -/
def State.memWrite (s : State) (a : Nat) (bs : List Byte) : Except Error State :=
  if spanInBounds a bs.length then .ok (s.writeBytes a bs) else .error (boundsError a)

/-! ## Registers -/

/-- `V[x]`, read (00_scope.md R9). -/
def State.getV (s : State) (x : Index16) : Byte := s.v[x]

/-- `V[x] <- b` (00_scope.md R9). -/
def State.setV (s : State) (x : Index16) (b : Byte) : State :=
  { s with v := s.v.set x b }

/-- `V[k] <- bytes[0]`, `V[k+1] <- bytes[1]`, and so on (the loop of 43_index_memory.md R187). -/
def loadRegs : Vector Byte 16 → Nat → List Byte → Vector Byte 16
  | v, _, [] => v
  | v, k, b :: bs => loadRegs (v.setIfInBounds k b) (k + 1) bs

/-- The registers `V[0]` up to and with the bytes' last one loaded. -/
def State.setVs (s : State) (bytes : List Byte) : State :=
  { s with v := loadRegs s.v 0 bytes }

/-- `V[0]` to `V[x]` in order (43_index_memory.md R186). -/
def State.getVs (s : State) (x : Index16) : List Byte := s.v.toList.take (x.val + 1)

/-- `I <- a` (10_state.md R25: not bounds-checked). -/
def State.setIndex (s : State) (a : Word) : State := { s with index := a }

/-- `pc <- t` (10_state.md R24: not bounds-checked). -/
def State.setPc (s : State) (t : Word) : State := { s with pc := t }

/-- `DT <- b` (10_state.md R27). -/
def State.setDt (s : State) (b : Byte) : State := { s with dt := b }

/-- `ST <- b` (10_state.md R27). -/
def State.setSt (s : State) (b : Byte) : State := { s with st := b }

/-- The framebuffer replaced (10_state.md R28). -/
def State.setFb (s : State) (fb : Framebuffer) : State := { s with fb := fb }

/-! ## The call stack (10_state.md R26) -/

/-- `push(stack, a)`: at the end of the list. -/
def State.push (s : State) (a : Word) : State := { s with stack := s.stack ++ [a] }

/-- The top of the stack, the most recently pushed entry; none when the stack is empty. -/
def State.top (s : State) : Option Word := s.stack.getLast?

/-- The stack without its top. -/
def State.dropTop (s : State) : State := { s with stack := s.stack.dropLast }

/-! ## The keypad (10_state.md R29) -/

/-- `key[k]`. -/
def State.getKey (s : State) (k : Index16) : Bool := s.keys[k]

/-- `key[k] <- b`. -/
def State.setKey (s : State) (k : Index16) (b : Bool) : State :=
  { s with keys := s.keys.set k b }

/-! ## The random source -/

/-- The counter of draws advanced: the next `Cxnn` draws another byte (40_execution_cycle.md R114). -/
def State.countDraw (s : State) : State := { s with draws := s.draws + 1 }

/-! ## Fetch -/

/-- The word at `pc`, `MemRead(pc, 2)` joined big-endian (40_execution_cycle.md R102, R103; 20_memory.md R57). -/
def State.fetch (s : State) : Except Error Word :=
  match s.memRead s.pc.toNat 2 with
  | .ok bytes => .ok (wordOfBytes (bytes.getD 0 0) (bytes.getD 1 0))
  | .error e => .error e

/-- `pc <- pc + 2`: the advance of the fetch (R104), a skip (41_control_flow.md R130). -/
def State.advance (s : State) : State := s.setPc (s.pc + 2)

/-- `pc <- pc - 2`: the rewind of `Fx0A` (45_keypad_timers.md R224). -/
def State.rewind (s : State) : State := s.setPc (s.pc - 2)

end Sys2Proof.Machine
end

