-- ==== Sys2Proof/Machine/Operands.lean ====
section
/-! DEFINITION. Every operand form the spec gives: the immediates, all unsigned (spec/30_encoding.md R83), the register a shift
reads and the register `Bnnn` adds (by the toggles of spec/00_scope.md R6), the address `I` gives (spec/43_index_memory.md
R183), the key a register names (spec/45_keypad_timers.md R220), the origin of a sprite (spec/44_display.md R202). -/

namespace Sys2Proof.Machine

/-- `nnn` as an address: zero-extended to 16 bits (30_encoding.md R83). -/
def address (nnn : Addr12) : Word := nnn.setWidth 16

/-- A byte as a 16-bit number: zero-extended (R83). -/
def widen (b : Byte) : Word := b.setWidth 16

/-- The value `8xy6` and `8xyE` shift: `Vy`, or `Vx` under `Q_SHIFT_SRC = VX` (42_load_alu.md R159, R161; log entry 19). -/
def State.shiftSource (s : State) (x y : Index16) : Byte :=
  match s.config.shiftSrc with
  | .vy => s.getV y
  | .vx => s.getV x

/-- The value `Bnnn` adds: `V0`, or `V[x]` under `Q_JUMP_REG = VX` (41_control_flow.md R138; log entry 19). -/
def State.jumpOffset (s : State) (x : Index16) : Byte :=
  match s.config.jumpReg with
  | .v0 => s.getV 0
  | .vx => s.getV x

/-- The address a memory instruction starts at: `I` as a natural (43_index_memory.md R183, 20_memory.md R68). -/
def State.base (s : State) : Nat := s.index.toNat

/-- The bytes of the block of `Fx55` and `Fx65`: `V[0]` to `V[x]` (43_index_memory.md R186, R187). -/
def blockLength (x : Index16) : Nat := x.val + 1

/-- `I <- I + x + 1` under `Q_INDEX_INC`, else `I` as it is (43_index_memory.md R186, R187; log entry 19). -/
def State.stepIndex (s : State) (x : Index16) : State :=
  if s.config.indexInc then s.setIndex (s.index + BitVec.ofNat 16 (blockLength x)) else s

/-- The key a register value names, none above 15: the value is not masked (45_keypad_timers.md R220). -/
def keyIndex (b : Byte) : Option Index16 :=
  if h : b.toNat < 16 then some ⟨b.toNat, h⟩ else none

/-- The column of a sprite's origin: modulo 64, or as it is under `Q_ORIGIN = CLIP` (44_display.md R202; log entry 19). -/
def State.originColumn (s : State) (b : Byte) : Nat :=
  match s.config.origin with
  | .wrap => b.toNat % 64
  | .clip => b.toNat

/-- The row of a sprite's origin: modulo 32, or as it is under `Q_ORIGIN = CLIP` (44_display.md R202; log entry 19). -/
def State.originRow (s : State) (b : Byte) : Nat :=
  match s.config.origin with
  | .wrap => b.toNat % 32
  | .clip => b.toNat

/-- The decimal digits of a byte, hundreds first (43_index_memory.md R185). -/
def digits (b : Byte) : List Byte :=
  [BitVec.ofNat 8 (b.toNat / 100), BitVec.ofNat 8 (b.toNat / 10 % 10), BitVec.ofNat 8 (b.toNat % 10)]

/-- The address of the glyph of a byte's low nibble (43_index_memory.md R184). -/
def glyphAddress (b : Byte) : Word := BitVec.ofNat 16 (fontAddr + 5 * (b.toNat % 16))

end Sys2Proof.Machine
end

