-- ==== Sys2Proof/Machine/Flags.lean ====
section
/-! DEFINITION. The flag computations (spec/10_state.md R23): the one flag is `VF`, and a flag-setting instruction writes its
result first and the flag last (spec/42_load_alu.md R150, D5; log entry 15). -/

namespace Sys2Proof.Machine

/-- A flag as the byte `VF` receives. -/
def flagByte (f : Bool) : Byte := if f then 1 else 0

/-- `VF <- f`. -/
def State.setFlag (s : State) (f : Bool) : State := s.setV flagReg (flagByte f)

/-- `V[x] <- r`, then `VF <- f`: with `x = 15` the flag overwrites the result (10_state.md R23, 42_load_alu.md R150). -/
def State.setResultFlag (s : State) (x : Index16) (r : Byte) (f : Bool) : State :=
  (s.setV x r).setFlag f

/-- The carry of `8xy4`: the wrapped sum is less than the first operand (42_load_alu.md R157). -/
def carry (a b : Byte) : Bool := (a + b).toNat < a.toNat

/-- The flag of `8xy5` and `8xy7`: no borrow was needed (42_load_alu.md R158, R160). -/
def noBorrow (minuend subtrahend : Byte) : Bool := subtrahend.toNat ≤ minuend.toNat

/-- The bit a right shift shifts out: bit 0 (42_load_alu.md R159). -/
def lowBit (b : Byte) : Bool := b.getLsbD 0

/-- The bit a left shift shifts out: bit 7 (42_load_alu.md R161). -/
def highBit (b : Byte) : Bool := b.getLsbD 7

end Sys2Proof.Machine
end

