-- ==== Sys2Proof/Machine/ControlFlow.lean ====
section
/-! DEFINITION. The control-transfer instructions (spec/41_control_flow.md). On entry `pc` is the post-fetch counter, the address
of the instruction plus 2 (spec/40_execution_cycle.md R104). -/

namespace Sys2Proof.Machine

/-- A skip: the one instruction that follows is not fetched (R130). -/
def skipIf (c : Bool) (s : State) : Result :=
  .next (if c then s.advance else s)

/-- `00EE` RET (R131). -/
def execRet (s : State) : Result :=
  match s.top with
  | none => raise .stackUnderflow s
  | some t => .next (s.dropTop.setPc t)

/-- `1nnn` JP (R132). -/
def execJp (nnn : Addr12) (s : State) : Result :=
  .next (s.setPc (address nnn))

/-- `2nnn` CALL (R133): the return address is the post-fetch counter. -/
def execCall (nnn : Addr12) (s : State) : Result :=
  .next ((s.push s.pc).setPc (address nnn))

/-- `3xnn` SE (R134). -/
def execSeImm (x : Index16) (nn : Byte) (s : State) : Result :=
  skipIf (s.getV x == nn) s

/-- `4xnn` SNE (R135). -/
def execSneImm (x : Index16) (nn : Byte) (s : State) : Result :=
  skipIf (s.getV x != nn) s

/-- `5xyn` SE (R136). -/
def execSeReg (x y : Index16) (s : State) : Result :=
  skipIf (s.getV x == s.getV y) s

/-- `9xyn` SNE (R137). -/
def execSneReg (x y : Index16) (s : State) : Result :=
  skipIf (s.getV x != s.getV y) s

/-- `Bnnn` JP V0 (R138): the sum is not reduced modulo 4096, and fits 16 bits. -/
def execJpOff (nnn : Addr12) (x : Index16) (s : State) : Result :=
  .next (s.setPc (address nnn + widen (s.jumpOffset x)))

end Sys2Proof.Machine
end

