-- ==== Sys2Proof/Machine/Display.lean ====
section
/-! DEFINITION. The framebuffer operations and the display instructions (spec/44_display.md). -/

namespace Sys2Proof.Machine

/-- All 2048 pixels false (R201). -/
def blankFb : Framebuffer := Vector.replicate 32 (Vector.replicate 64 false)

/-- One sprite bit at one place, with the collision so far: a 1 bit inside the 64 x 32 bounds toggles the pixel, and is a
collision if it was set; a 0 bit, or one outside the bounds, does nothing (R202, R204(b), (d)). -/
def plot (p : Framebuffer × Bool) (row col : Nat) (bit : Bool) : Framebuffer × Bool :=
  if h : row < 32 ∧ col < 64 then
    if bit then (p.1.set row (p.1[row].set col (!p.1[row][col])), p.2 || p.1[row][col]) else p
  else p

/-- The eight bits of one sprite byte from a column on, bit 7 leftmost (R202, R203, D11; log entry 20). -/
def plotByte (p : Framebuffer × Bool) (row col : Nat) (byte : Byte) : Framebuffer × Bool :=
  (List.range 8).foldl (fun q b => plot q row (col + b) (byte.getLsbD (7 - b))) p

/-- The rows of a sprite, one byte a row, top row first (R202). The collision is accumulated over the whole sprite (R204(e)). -/
def plotRows (p : Framebuffer × Bool) (row col : Nat) : List Byte → Framebuffer × Bool
  | [] => p
  | byte :: rest => plotRows (plotByte p row col byte) (row + 1) col rest

/-- A sprite drawn with its origin at a row and a column: the framebuffer after, and whether any pixel went from set to unset. -/
def drawSprite (fb : Framebuffer) (row col : Nat) (sprite : List Byte) : Framebuffer × Bool :=
  plotRows (fb, false) row col sprite

/-- `00E0` CLS (R201): `VF` is not touched. -/
def execCls (s : State) : Result :=
  .next (s.setFb blankFb)

/-- `Dxyn` DRW (R202): the whole sprite is read, and checked, before any pixel changes; `Vx` and `Vy` are read before `VF`
is written. -/
def execDrw (x y : Index16) (n : Nibble) (s : State) : Result :=
  match s.memRead s.base n.toNat with
  | .error e => raise e s
  | .ok sprite =>
    let drawn := drawSprite s.fb (s.originRow (s.getV y)) (s.originColumn (s.getV x)) sprite
    .next ((s.setFb drawn.1).setFlag drawn.2)

end Sys2Proof.Machine
end

