-- ==== Sys2Proof/Machine/IndexMemory.lean ====
section
/-! DEFINITION. Index register and memory instructions (spec/43_index_memory.md). A memory instruction checks its whole span first
and then performs all its writes or none (R180). -/

namespace Sys2Proof.Machine

/-- `Annn` LD I (R181). -/
def execLdI (nnn : Addr12) (s : State) : Result :=
  .next (s.setIndex (address nnn))

/-- `Fx1E` ADD I (R182): modulo 65536, `VF` untouched, unchecked (D1, D9; log entries 18 and 16). -/
def execAddI (x : Index16) (s : State) : Result :=
  .next (s.setIndex (s.index + widen (s.getV x)))

/-- `Fx29` LD F (R184): the address only, no memory is read. -/
def execLdFont (x : Index16) (s : State) : Result :=
  .next (s.setIndex (glyphAddress (s.getV x)))

/-- `Fx33` LD B (R185): the decimal digits at `I`, `I + 1`, `I + 2`. -/
def execBcd (x : Index16) (s : State) : Result :=
  match s.memWrite s.base (digits (s.getV x)) with
  | .ok t => .next t
  | .error e => raise e s

/-- `Fx55` LD [I], Vx (R186): the block store. -/
def execStore (x : Index16) (s : State) : Result :=
  match s.memWrite s.base (s.getVs x) with
  | .ok t => .next (t.stepIndex x)
  | .error e => raise e s

/-- `Fx65` LD Vx, [I] (R187): the block load, all bytes read before any register changes. -/
def execLoad (x : Index16) (s : State) : Result :=
  match s.memRead s.base (blockLength x) with
  | .ok bytes => .next ((s.setVs bytes).stepIndex x)
  | .error e => raise e s

end Sys2Proof.Machine
end

