-- ==== Sys2Proof/Machine/KeypadTimers.lean ====
section
/-! DEFINITION. Keypad and timer instructions (spec/45_keypad_timers.md). The keys an instruction reads are one snapshot: the host's
writes fall between steps (spec/40_execution_cycle.md R115). -/

namespace Sys2Proof.Machine

/-- The least pressed key, scanning 0 to 15 in ascending order (R224). -/
def State.leastKey (s : State) : Option Index16 :=
  (List.finRange 16).find? (fun k => s.getKey k)

/-- A skip on the key that `V[x]` names: `InvalidKeyIndex` above 15, never masked (R220, R221, R222). -/
def skipOnKey (x : Index16) (wanted : Bool) (s : State) : Result :=
  match keyIndex (s.getV x) with
  | none => raise (.invalidKeyIndex (s.getV x)) s
  | some k => skipIf (s.getKey k == wanted) s

/-- `Ex9E` SKP (R221). -/
def execSkp (x : Index16) (s : State) : Result :=
  skipOnKey x true s

/-- `ExA1` SKNP (R222): an invalid key does not count as not pressed. -/
def execSknp (x : Index16) (s : State) : Result :=
  skipOnKey x false s

/-- `Fx07` LD Vx, DT (R223, D8; log entry 16). -/
def execLdFromDt (x : Index16) (s : State) : Result :=
  .next (s.setV x s.dt)

/-- `Fx0A` LD Vx, K (R224): the least pressed key is reported and released, or `pc` goes back to this instruction. -/
def execLdKey (x : Index16) (s : State) : Result :=
  match s.leastKey with
  | some k => .next ((s.setV x (BitVec.ofNat 8 k.val)).setKey k false)
  | none => .next s.rewind

/-- `Fx15` LD DT, Vx (R225, D8; log entry 16). -/
def execLdDt (x : Index16) (s : State) : Result :=
  .next (s.setDt (s.getV x))

/-- `Fx18` LD ST, Vx (R226, D8; log entry 16). -/
def execLdSt (x : Index16) (s : State) : Result :=
  .next (s.setSt (s.getV x))

end Sys2Proof.Machine
end

