-- ==== Sys2Proof/Machine/LoadAlu.lean ====
section
/-! DEFINITION. Register load, arithmetic, logic, shift and random instructions (spec/42_load_alu.md). Both operands are read before
the first write (R150); 8-bit arithmetic wraps. -/

namespace Sys2Proof.Machine

/-- `6xnn` LD (R151). -/
def execLdImm (x : Index16) (nn : Byte) (s : State) : Result :=
  .next (s.setV x nn)

/-- `7xnn` ADD (R152): no carry is recorded. -/
def execAddImm (x : Index16) (nn : Byte) (s : State) : Result :=
  .next (s.setV x (s.getV x + nn))

/-- `8xy0` LD (R153, D6; log entry 16). -/
def execLdReg (x y : Index16) (s : State) : Result :=
  .next (s.setV x (s.getV y))

/-- `8xy1` OR (R154): `VF` is cleared. -/
def execOrReg (x y : Index16) (s : State) : Result :=
  .next (s.setResultFlag x (s.getV x ||| s.getV y) false)

/-- `8xy2` AND (R155): `VF` is cleared. -/
def execAndReg (x y : Index16) (s : State) : Result :=
  .next (s.setResultFlag x (s.getV x &&& s.getV y) false)

/-- `8xy3` XOR (R156): `VF` is cleared. -/
def execXorReg (x y : Index16) (s : State) : Result :=
  .next (s.setResultFlag x (s.getV x ^^^ s.getV y) false)

/-- `8xy4` ADD (R157). -/
def execAddReg (x y : Index16) (s : State) : Result :=
  .next (s.setResultFlag x (s.getV x + s.getV y) (carry (s.getV x) (s.getV y)))

/-- `8xy5` SUB: `Vx - Vy` (R158, D7; log entry 16). -/
def execSub (x y : Index16) (s : State) : Result :=
  .next (s.setResultFlag x (s.getV x - s.getV y) (noBorrow (s.getV x) (s.getV y)))

/-- `8xy7` SUBN: `Vy - Vx` (R160, D7; log entry 16). -/
def execSubn (x y : Index16) (s : State) : Result :=
  .next (s.setResultFlag x (s.getV y - s.getV x) (noBorrow (s.getV y) (s.getV x)))

/-- `8xy6` SHR: logical, by one bit (R159, D7; log entry 16). -/
def execShr (x y : Index16) (s : State) : Result :=
  .next (s.setResultFlag x (s.shiftSource x y >>> 1) (lowBit (s.shiftSource x y)))

/-- `8xyE` SHL: by one bit (R161, D7; log entry 16). -/
def execShl (x y : Index16) (s : State) : Result :=
  .next (s.setResultFlag x (s.shiftSource x y <<< 1) (highBit (s.shiftSource x y)))

/-- `Cxnn` RND (R162): the byte drawn is a free value, a fresh one each time (40_execution_cycle.md R114; log entry 12). -/
def execRnd (x : Index16) (nn : Byte) (s : State) : Result :=
  .next (s.countDraw.setV x (Config.freeByte s.draws &&& nn))

end Sys2Proof.Machine
end

