-- ==== Sys2Proof/Machine/Frame.lean ====
section
/-! DEFINITION. The frame loop around the steps (spec/40_execution_cycle.md R108 to R113): the frame's start with its `Tick`
(spec/60_exceptions.md R254), and the frame's end with its two outputs and the sampling of the stop signal. -/

namespace Sys2Proof.Machine

/-- One down, saturating at zero (60_exceptions.md R254). -/
def countDown (b : Byte) : Byte := if b = 0 then 0 else b - 1

/-- `Tick()` (60_exceptions.md R254): the two timers, each on its own, and nothing else. -/
def State.tick (s : State) : State :=
  { s with dt := countDown s.dt, st := countDown s.st }

/-- The first action of a frame: `Tick`, and the batch of `INSTR_PER_FRAME` steps is due (R108, R109). -/
def beginFrame (s : State) : Result :=
  match frameBatch s.config with
  | none => .refused .frameRateZero
  | some n => .next { s.tick with phase := .batch n }

/-- `ST != 0`, the tone output (R111). -/
def State.toneOn (s : State) : Bool := s.st != 0

/-- The end of a frame: `Present(fb)`, `Tone(ST != 0)`, and the host's stop signal is sampled (R108, R111, R113). -/
def endFrame (s : State) : Result :=
  .next { s with
    output := some { fb := s.fb, tone := s.toneOn }
    phase := if s.stop then .over else .tick }

end Sys2Proof.Machine
end

