-- ==== Sys2Proof/Machine/HostPort.lean ====
section
/-! DEFINITION. What the host does to a created core (spec/40_execution_cycle.md R112), each event where the spec enables it.
`Reset` and the configuration come before: `State.resetWith` (spec/70_reset_and_hazards.md R270, R271). -/

namespace Sys2Proof.Machine

/-- `LoadProgram(bytes)`: in `Idle` only, at 0x200, at most 3584 bytes, all or nothing (20_memory.md R55). -/
def loadProgram (bytes : List Byte) (s : State) : Result :=
  match s.run with
  | .running => .refused .hostEventNotEnabled
  | .idle => if bytes.length ≤ progMax then .next (s.writeBytes progBase bytes) else .fault .programTooLarge

/-- `Start`: `Idle → Running` (40_execution_cycle.md R101, D29), refused under `FRAME_RATE = 0` (R109). -/
def start (s : State) : Result :=
  match s.run with
  | .running => .refused .hostEventNotEnabled
  | .idle =>
    match frameBatch s.config with
    | none => .refused .frameRateZero
    | some _ => .next { s with run := .running }

/-- One host event (40_execution_cycle.md R112). -/
def hostEvent (e : HostEvent) (s : State) : Result :=
  match e with
  | .loadProgram bytes => loadProgram bytes s
  | .start => start s
  | .setKey k b => .next (s.setKey k b)
  | .setStop level => .next { s with stop := level }

end Sys2Proof.Machine
end

