-- ==== Sys2Proof/Machine/Cycle.lean ====
section
/-! DEFINITION. One fetch, decode, execute cycle (spec/40_execution_cycle.md R102), and whose move is next: the host's by its plan,
else the frame loop's (R100, R101, R108). Sys2Proof/Machine/Step.lean only calls what stands here. -/

namespace Sys2Proof.Machine

/-- The end of a cycle whose word has been fetched and counted past: decode, then execute (R102, R93). -/
def decodeExecute (w : Word) (s : State) : Result :=
  match decodeWord w with
  | .ok i => exec i s
  | .error _ => raise (.unsupportedOpcode w) s

/-- `Step()` (R102): fetch, advance, decode, execute, in this order. A fetch error leaves `pc` as it was (R103); the advance
stands when decode or execute raises (R105, D16; log entry 21). -/
def cycle (s : State) : Result :=
  match s.fetch with
  | .error e => raise e s
  | .ok w => decodeExecute w s.advance

/-- The machine's own next move. Idle, the core waits for the host and nothing changes (R101; log entry 7). Running, the
frame loop goes on: `Tick`, the steps of the batch, each taking one slot, the frame's end (R108, R110). -/
def machineMove (s : State) : Result :=
  match s.run, s.phase with
  | .idle, _ => .next s
  | .running, .tick => beginFrame s
  | .running, .batch 0 => endFrame s
  | .running, .batch (n + 1) => cycle { s with phase := .batch n }
  | .running, .over => .fault .stoppedByHost

/-- Why nothing at all is enabled, if so: an error has ended the session (60_exceptions.md R247), or the host's stop signal
has ended the run (R113). -/
def State.ended (s : State) : Option Fault :=
  match s.fault, s.phase with
  | some e, _ => some (.sessionOver e)
  | none, .over => some .stoppedByHost
  | none, _ => none

/-- The next move: the host's if its plan says so, else the machine's own (R100, R115; log entry 8). -/
def nextMove (s : State) : Result :=
  match s.host with
  | [] => machineMove s
  | .yield :: rest => machineMove { s with host := rest }
  | .event e :: rest => hostEvent e { s with host := rest }

/-- One step of the whole machine. -/
def stepMove (s : State) : Result :=
  match s.ended with
  | some f => .fault f
  | none => nextMove s

/-- Where the next instruction is fetched: `pc`, or 0x200 where no word can be fetched at `pc`. -/
def State.fetchAddress (s : State) : Word :=
  if spanInBounds s.pc.toNat 2 then s.pc else BitVec.ofNat 16 progBase

/-- A slot of the batch is left: one, if none was. -/
def Phase.withSlot : Phase → Phase
  | .batch (n + 1) => .batch (n + 1)
  | _ => .batch 1

/-- The state made to run, as its very next step, the instruction whose bytes are given: they stand where it fetches, the
core is `Running` with no error latched, a slot of the batch is left, and the host has no move before it (log entry 22). -/
def State.placeInstr (s : State) (bytes : List Byte) : State :=
  { (s.setPc s.fetchAddress).writeBytes s.fetchAddress.toNat bytes with
    run := .running
    fault := none
    phase := s.phase.withSlot
    host := [] }

end Sys2Proof.Machine
end

