-- ==== Sys2Proof/Safety.lean ====
section
/-! DEFINITION. The terms that claims are stated in: what a step may change, the invariants of the machine, which pixels a sprite
covers, the rows of the opcode table. They are written apart from the machine's own operations, so that a claim can find
an error in those. -/

namespace Sys2Proof.Machine

/-! ## Frames -/

/-- What an instruction may change; whatever is not named here is unchanged (spec/40_execution_cycle.md R116). The stored
bytes are those of the span of `storeLen` bytes from `storeAt` up. -/
structure Changes where
  regs : List Index16 := []
  index : Bool := false
  pc : Bool := false
  stack : Bool := false
  dt : Bool := false
  st : Bool := false
  fb : Bool := false
  keys : Bool := false
  draws : Bool := false
  storeAt : Nat := 0
  storeLen : Nat := 0

/-- `t` differs from `s` at most in what `c` names: every other register, every byte of memory outside the stored span, every
other field of the state is as it was, the error latch and the frame's position among them. -/
structure Frame (c : Changes) (s t : State) : Prop where
  regs : ∀ k : Index16, k ∉ c.regs → t.v[k] = s.v[k]
  index : c.index = false → t.index = s.index
  pc : c.pc = false → t.pc = s.pc
  stack : c.stack = false → t.stack = s.stack
  dt : c.dt = false → t.dt = s.dt
  st : c.st = false → t.st = s.st
  fb : c.fb = false → t.fb = s.fb
  keys : c.keys = false → t.keys = s.keys
  draws : c.draws = false → t.draws = s.draws
  bytes : ∀ a : Nat, (a < c.storeAt ∨ c.storeAt + c.storeLen ≤ a) → t.byteAt a = s.byteAt a
  config : t.config = s.config
  run : t.run = s.run
  fault : t.fault = s.fault
  phase : t.phase = s.phase
  stop : t.stop = s.stop
  output : t.output = s.output
  host : t.host = s.host

/-- The outcome with its next state changed by a function; a fault or a refusal stays. -/
def mapNext (f : State → State) : Result → Result
  | .next t => .next (f t)
  | .fault e => .fault e
  | .refused r => .refused r

/-! ## Invariants -/

/-- The ranges that spec/10_state.md R36 lets a model rely on: `pc` is at most 0x10FE, every stack entry a post-fetch counter. -/
def State.InRange (s : State) : Prop :=
  s.pc.toNat ≤ 0x10FE ∧ ∀ a ∈ s.stack, 2 ≤ a.toNat ∧ a.toNat ≤ 4096

/-- Memory is in its canonical form. -/
def State.Canonical (s : State) : Prop := Memory.wf s.config s.mem = true

/-- The core is about to run a cycle: `Running`, no error latched, nothing the host does first, a slot of the batch left
(spec/40_execution_cycle.md R101, R108). -/
structure State.AtCycle (s : State) (left : Nat) : Prop where
  running : s.run = .running
  noFault : s.fault = none
  noHost : s.host = []
  slot : s.phase = .batch (left + 1)

/-! ## Sprites -/

/-- Whether a sprite byte whose leftmost bit stands at a column has a 1 bit at another column: bit 7 is leftmost
(spec/44_display.md R203). -/
def byteCovers (byte : Byte) (col c : Nat) : Bool :=
  col ≤ c && c < col + 8 && byte.getLsbD (7 - (c - col))

/-- Whether a sprite, its top left bit at `(row, col)`, has a 1 bit at `(r, c)` (spec/44_display.md R202, R203). -/
def spriteCovers (sprite : List Byte) (row col r c : Nat) : Bool :=
  row ≤ r && byteCovers (sprite.getD (r - row) 0) col c

/-! ## Encodings -/

/-- The fields of spec/30_encoding.md R81 by division, apart from the decoder's own slices. -/
def wordX (w : Word) : Index16 := ⟨w.toNat / 256 % 16, by omega⟩

def wordY (w : Word) : Index16 := ⟨w.toNat / 16 % 16, by omega⟩

def wordN (w : Word) : Nibble := BitVec.ofNat 4 (w.toNat % 16)

def wordLow (w : Word) : Byte := BitVec.ofNat 8 (w.toNat % 256)

def wordAddr (w : Word) : Addr12 := BitVec.ofNat 12 (w.toNat % 4096)

/-- A row of the table of spec/30_encoding.md R85: the words with `w & mask = pattern`, and no others, decode to the row's
operation with the fields taken from the word. -/
def RowDecodes (mask pattern : Word) (op : Word → Instr) : Prop :=
  ∀ w : Word, w &&& mask = pattern ↔ decodeWord w = .ok (op w)

/-- The illegal words, family by family (spec/30_encoding.md R86), by division. -/
def IllegalWord (w : Word) : Prop :=
  (w.toNat / 4096 = 0x0 ∧ w.toNat % 4096 ∉ [0x0E0, 0x0EE]) ∨
  (w.toNat / 4096 = 0x8 ∧ w.toNat % 16 ∈ [0x8, 0x9, 0xA, 0xB, 0xC, 0xD, 0xF]) ∨
  (w.toNat / 4096 = 0xE ∧ w.toNat % 256 ∉ [0x9E, 0xA1]) ∨
  (w.toNat / 4096 = 0xF ∧ w.toNat % 256 ∉ [0x07, 0x0A, 0x15, 0x18, 0x1E, 0x29, 0x33, 0x55, 0x65])

/-! ## Which instructions do what -/

/-- The seven instructions with an execute-stage error (spec/60_exceptions.md R240). -/
def canRaise : Instr → Bool
  | .drw _ _ _ | .bcd _ | .store _ | .load _ | .ret | .skp _ | .sknp _ => true
  | .cls | .jp _ | .call _ | .ldI _ | .jpOff _ _ => false
  | .seImm _ _ | .sneImm _ _ | .ldImm _ _ | .addImm _ _ | .rnd _ _ => false
  | .seReg _ _ | .sneReg _ _ | .ldReg _ _ => false
  | .orReg _ _ | .andReg _ _ | .xorReg _ _ | .addReg _ _ | .sub _ _ | .subn _ _ | .shr _ _ | .shl _ _ => false
  | .ldFromDt _ | .ldKey _ | .ldDt _ | .ldSt _ | .addI _ | .ldFont _ => false

/-- The instructions that may write `VF`: those of the table of spec/10_state.md R23, and those whose destination it is. -/
def mayWriteFlag : Instr → Bool
  | .orReg _ _ | .andReg _ _ | .xorReg _ _ | .addReg _ _ | .sub _ _ | .subn _ _ | .shr _ _ | .shl _ _ => true
  | .drw _ _ _ => true
  | .ldImm x _ | .addImm x _ | .rnd x _ => x == 15
  | .ldReg x _ | .ldFromDt x | .ldKey x | .load x => x == 15
  | .cls | .ret | .jp _ | .call _ | .ldI _ | .jpOff _ _ => false
  | .seImm _ _ | .sneImm _ _ | .seReg _ _ | .sneReg _ _ => false
  | .skp _ | .sknp _ | .ldDt _ | .ldSt _ | .addI _ | .ldFont _ | .bcd _ | .store _ => false

/-- The instructions that reach the framebuffer (spec/20_memory.md R67). -/
def reachesDisplay : Instr → Bool
  | .cls | .drw _ _ _ => true
  | .ret | .jp _ | .call _ | .ldI _ | .jpOff _ _ => false
  | .seImm _ _ | .sneImm _ _ | .ldImm _ _ | .addImm _ _ | .rnd _ _ => false
  | .seReg _ _ | .sneReg _ _ | .ldReg _ _ => false
  | .orReg _ _ | .andReg _ _ | .xorReg _ _ | .addReg _ _ | .sub _ _ | .subn _ _ | .shr _ _ | .shl _ _ => false
  | .skp _ | .sknp _ | .ldFromDt _ | .ldKey _ | .ldDt _ | .ldSt _ => false
  | .addI _ | .ldFont _ | .bcd _ | .store _ | .load _ => false

/-- The instructions that reach the keypad (R67). -/
def reachesKeypad : Instr → Bool
  | .skp _ | .sknp _ | .ldKey _ => true
  | .cls | .drw _ _ _ | .ret | .jp _ | .call _ | .ldI _ | .jpOff _ _ => false
  | .seImm _ _ | .sneImm _ _ | .ldImm _ _ | .addImm _ _ | .rnd _ _ => false
  | .seReg _ _ | .sneReg _ _ | .ldReg _ _ => false
  | .orReg _ _ | .andReg _ _ | .xorReg _ _ | .addReg _ _ | .sub _ _ | .subn _ _ | .shr _ _ | .shl _ _ => false
  | .ldFromDt _ | .ldDt _ | .ldSt _ | .addI _ | .ldFont _ | .bcd _ | .store _ | .load _ => false

/-- The instructions that reach the timers (R67). -/
def reachesTimers : Instr → Bool
  | .ldFromDt _ | .ldDt _ | .ldSt _ => true
  | .cls | .drw _ _ _ | .ret | .jp _ | .call _ | .ldI _ | .jpOff _ _ => false
  | .seImm _ _ | .sneImm _ _ | .ldImm _ _ | .addImm _ _ | .rnd _ _ => false
  | .seReg _ _ | .sneReg _ _ | .ldReg _ _ => false
  | .orReg _ _ | .andReg _ _ | .xorReg _ _ | .addReg _ _ | .sub _ _ | .subn _ _ | .shr _ _ | .shl _ _ => false
  | .skp _ | .sknp _ | .ldKey _ | .addI _ | .ldFont _ | .bcd _ | .store _ | .load _ => false

/-- The one instruction that writes a key, by releasing it (spec/10_state.md R20, R29): `Fx0A`. -/
def writesKeys : Instr → Bool
  | .ldKey _ => true
  | .cls | .drw _ _ _ | .ret | .jp _ | .call _ | .ldI _ | .jpOff _ _ => false
  | .seImm _ _ | .sneImm _ _ | .ldImm _ _ | .addImm _ _ | .rnd _ _ => false
  | .seReg _ _ | .sneReg _ _ | .ldReg _ _ => false
  | .orReg _ _ | .andReg _ _ | .xorReg _ _ | .addReg _ _ | .sub _ _ | .subn _ _ | .shr _ _ | .shl _ _ => false
  | .skp _ | .sknp _ | .ldFromDt _ | .ldDt _ | .ldSt _ | .addI _ | .ldFont _ | .bcd _ | .store _ | .load _ => false

/-- The one instruction that writes `DT` (R20, R27): `Fx15`. -/
def writesDt : Instr → Bool
  | .ldDt _ => true
  | .cls | .drw _ _ _ | .ret | .jp _ | .call _ | .ldI _ | .jpOff _ _ => false
  | .seImm _ _ | .sneImm _ _ | .ldImm _ _ | .addImm _ _ | .rnd _ _ => false
  | .seReg _ _ | .sneReg _ _ | .ldReg _ _ => false
  | .orReg _ _ | .andReg _ _ | .xorReg _ _ | .addReg _ _ | .sub _ _ | .subn _ _ | .shr _ _ | .shl _ _ => false
  | .skp _ | .sknp _ | .ldFromDt _ | .ldKey _ | .ldSt _ | .addI _ | .ldFont _ | .bcd _ | .store _ | .load _ => false

/-- The one instruction that writes `ST` (R20, R27): `Fx18`. -/
def writesSt : Instr → Bool
  | .ldSt _ => true
  | .cls | .drw _ _ _ | .ret | .jp _ | .call _ | .ldI _ | .jpOff _ _ => false
  | .seImm _ _ | .sneImm _ _ | .ldImm _ _ | .addImm _ _ | .rnd _ _ => false
  | .seReg _ _ | .sneReg _ _ | .ldReg _ _ => false
  | .orReg _ _ | .andReg _ _ | .xorReg _ _ | .addReg _ _ | .sub _ _ | .subn _ _ | .shr _ _ | .shl _ _ => false
  | .skp _ | .sknp _ | .ldFromDt _ | .ldKey _ | .ldDt _ | .addI _ | .ldFont _ | .bcd _ | .store _ | .load _ => false

/-- The one instruction that draws a random byte (R32(b)): `Cxnn`. -/
def drawsByte : Instr → Bool
  | .rnd _ _ => true
  | .cls | .drw _ _ _ | .ret | .jp _ | .call _ | .ldI _ | .jpOff _ _ => false
  | .seImm _ _ | .sneImm _ _ | .ldImm _ _ | .addImm _ _ => false
  | .seReg _ _ | .sneReg _ _ | .ldReg _ _ => false
  | .orReg _ _ | .andReg _ _ | .xorReg _ _ | .addReg _ _ | .sub _ _ | .subn _ _ | .shr _ _ | .shl _ _ => false
  | .skp _ | .sknp _ | .ldFromDt _ | .ldKey _ | .ldDt _ | .ldSt _ | .addI _ | .ldFont _ | .bcd _ | .store _ | .load _ => false

/-- The instructions whose execute stage may write `pc` (R24): the skips, the jumps, the call, the return, and `Fx0A`. -/
def mayWritePc : Instr → Bool
  | .ret | .jp _ | .call _ | .jpOff _ _ => true
  | .seImm _ _ | .sneImm _ _ | .seReg _ _ | .sneReg _ _ | .skp _ | .sknp _ | .ldKey _ => true
  | .cls | .drw _ _ _ | .ldI _ => false
  | .ldImm _ _ | .addImm _ _ | .rnd _ _ | .ldReg _ _ => false
  | .orReg _ _ | .andReg _ _ | .xorReg _ _ | .addReg _ _ | .sub _ _ | .subn _ _ | .shr _ _ | .shl _ _ => false
  | .ldFromDt _ | .ldDt _ | .ldSt _ | .addI _ | .ldFont _ | .bcd _ | .store _ | .load _ => false

/-- The instructions that store to memory (spec/20_memory.md R50). -/
def storesToMemory : Instr → Bool
  | .bcd _ | .store _ => true
  | .cls | .drw _ _ _ | .ret | .jp _ | .call _ | .ldI _ | .jpOff _ _ => false
  | .seImm _ _ | .sneImm _ _ | .ldImm _ _ | .addImm _ _ | .rnd _ _ => false
  | .seReg _ _ | .sneReg _ _ | .ldReg _ _ => false
  | .orReg _ _ | .andReg _ _ | .xorReg _ _ | .addReg _ _ | .sub _ _ | .subn _ _ | .shr _ _ | .shl _ _ => false
  | .skp _ | .sknp _ | .ldFromDt _ | .ldKey _ | .ldDt _ | .ldSt _ | .addI _ | .ldFont _ | .load _ => false

/-- The instructions that may change `I` (spec/10_state.md R25). -/
def mayWriteIndex : Instr → Bool
  | .ldI _ | .addI _ | .ldFont _ | .store _ | .load _ => true
  | .cls | .drw _ _ _ | .ret | .jp _ | .call _ | .jpOff _ _ => false
  | .seImm _ _ | .sneImm _ _ | .ldImm _ _ | .addImm _ _ | .rnd _ _ => false
  | .seReg _ _ | .sneReg _ _ | .ldReg _ _ => false
  | .orReg _ _ | .andReg _ _ | .xorReg _ _ | .addReg _ _ | .sub _ _ | .subn _ _ | .shr _ _ | .shl _ _ => false
  | .skp _ | .sknp _ | .ldFromDt _ | .ldKey _ | .ldDt _ | .ldSt _ | .bcd _ => false

/-- The instructions that reach the call stack (spec/10_state.md R26). -/
def reachesStack : Instr → Bool
  | .call _ | .ret => true
  | .cls | .drw _ _ _ | .jp _ | .ldI _ | .jpOff _ _ => false
  | .seImm _ _ | .sneImm _ _ | .ldImm _ _ | .addImm _ _ | .rnd _ _ => false
  | .seReg _ _ | .sneReg _ _ | .ldReg _ _ => false
  | .orReg _ _ | .andReg _ _ | .xorReg _ _ | .addReg _ _ | .sub _ _ | .subn _ _ | .shr _ _ | .shl _ _ => false
  | .skp _ | .sknp _ | .ldFromDt _ | .ldKey _ | .ldDt _ | .ldSt _ => false
  | .addI _ | .ldFont _ | .bcd _ | .store _ | .load _ => false

end Sys2Proof.Machine
end

