-- ==== Sys2Proof/Certificates/Slice0/Obligations.lean ====
section
/-! DEFINITION. The statements for the provers, from the numbered rules of spec/. Values are stated in the rules' own terms: naturals and
explicit bits, not the machine's own operations. A statement about an instruction ends in the next state that `exec` answers,
with `pc` on entry the post-fetch counter (spec/40_execution_cycle.md R104), and says what is unchanged by a `Frame`. The
payload of an error other than the word of `UnsupportedOpcode` is left open (spec/60_exceptions.md R241). -/

open Sys2Proof Sys2Proof.Machine

/-! ## Encoding -/

/-- Decoding the word of a well-formed instruction gives the instruction back (30_encoding.md R92: the encoder is the inverse
of the table). -/
def Obligations.EncodedInstructionDecodes : Prop :=
  ∀ i : Instr, i.wf = true → decodeWord (encode i) = .ok i

/-- A word that decodes is the word of what it decodes to, but for the nibble that `5xyn` and `9xyn` do not keep (R87, R92);
and what it decodes to is well formed. -/
def Obligations.DecodedWordEncodes : Prop :=
  ∀ (w : Word) (i : Instr), decodeWord w = .ok i →
    i.wf = true ∧
    encode i = if w.toNat / 4096 = 0x5 ∨ w.toNat / 4096 = 0x9 then w &&& 0xFFF0#16 else w

/-- All 34 rows of the table of R85: the words that match a row's mask, and no others, decode to the row's operation with the
fields of R81. -/
def Obligations.TableRowsDecode : Prop :=
  RowDecodes 0xFFFF#16 0x00E0#16 (fun _ => .cls) ∧
  RowDecodes 0xFFFF#16 0x00EE#16 (fun _ => .ret) ∧
  RowDecodes 0xF000#16 0x1000#16 (fun w => .jp (wordAddr w)) ∧
  RowDecodes 0xF000#16 0x2000#16 (fun w => .call (wordAddr w)) ∧
  RowDecodes 0xF000#16 0x3000#16 (fun w => .seImm (wordX w) (wordLow w)) ∧
  RowDecodes 0xF000#16 0x4000#16 (fun w => .sneImm (wordX w) (wordLow w)) ∧
  RowDecodes 0xF000#16 0x5000#16 (fun w => .seReg (wordX w) (wordY w)) ∧
  RowDecodes 0xF000#16 0x6000#16 (fun w => .ldImm (wordX w) (wordLow w)) ∧
  RowDecodes 0xF000#16 0x7000#16 (fun w => .addImm (wordX w) (wordLow w)) ∧
  RowDecodes 0xF00F#16 0x8000#16 (fun w => .ldReg (wordX w) (wordY w)) ∧
  RowDecodes 0xF00F#16 0x8001#16 (fun w => .orReg (wordX w) (wordY w)) ∧
  RowDecodes 0xF00F#16 0x8002#16 (fun w => .andReg (wordX w) (wordY w)) ∧
  RowDecodes 0xF00F#16 0x8003#16 (fun w => .xorReg (wordX w) (wordY w)) ∧
  RowDecodes 0xF00F#16 0x8004#16 (fun w => .addReg (wordX w) (wordY w)) ∧
  RowDecodes 0xF00F#16 0x8005#16 (fun w => .sub (wordX w) (wordY w)) ∧
  RowDecodes 0xF00F#16 0x8006#16 (fun w => .shr (wordX w) (wordY w)) ∧
  RowDecodes 0xF00F#16 0x8007#16 (fun w => .subn (wordX w) (wordY w)) ∧
  RowDecodes 0xF00F#16 0x800E#16 (fun w => .shl (wordX w) (wordY w)) ∧
  RowDecodes 0xF000#16 0x9000#16 (fun w => .sneReg (wordX w) (wordY w)) ∧
  RowDecodes 0xF000#16 0xA000#16 (fun w => .ldI (wordAddr w)) ∧
  RowDecodes 0xF000#16 0xB000#16 (fun w => .jpOff (wordAddr w) (wordX w)) ∧
  RowDecodes 0xF000#16 0xC000#16 (fun w => .rnd (wordX w) (wordLow w)) ∧
  RowDecodes 0xF000#16 0xD000#16 (fun w => .drw (wordX w) (wordY w) (wordN w)) ∧
  RowDecodes 0xF0FF#16 0xE09E#16 (fun w => .skp (wordX w)) ∧
  RowDecodes 0xF0FF#16 0xE0A1#16 (fun w => .sknp (wordX w)) ∧
  RowDecodes 0xF0FF#16 0xF007#16 (fun w => .ldFromDt (wordX w)) ∧
  RowDecodes 0xF0FF#16 0xF00A#16 (fun w => .ldKey (wordX w)) ∧
  RowDecodes 0xF0FF#16 0xF015#16 (fun w => .ldDt (wordX w)) ∧
  RowDecodes 0xF0FF#16 0xF018#16 (fun w => .ldSt (wordX w)) ∧
  RowDecodes 0xF0FF#16 0xF01E#16 (fun w => .addI (wordX w)) ∧
  RowDecodes 0xF0FF#16 0xF029#16 (fun w => .ldFont (wordX w)) ∧
  RowDecodes 0xF0FF#16 0xF033#16 (fun w => .bcd (wordX w)) ∧
  RowDecodes 0xF0FF#16 0xF055#16 (fun w => .store (wordX w)) ∧
  RowDecodes 0xF0FF#16 0xF065#16 (fun w => .load (wordX w))

/-- The words the decoder refuses are exactly the illegal words of R86, and it names the word. -/
def Obligations.IllegalWordsAreRefused : Prop :=
  ∀ w : Word,
    (IllegalWord w ↔ decodeWord w = .error (.unsupportedOpcode w)) ∧
    (IllegalWord w ↔ ∀ i : Instr, decodeWord w ≠ .ok i)

/-- A sanity check: words of the spec's own decoding table (95_test_vectors.md 2.1), one or more a family; that 5AB7 decodes rests on
the spec's decision D10, log entry 17. -/
def Obligations.SpecWordsDecode : Prop :=
  decodeWord 0x00EE = .ok .ret ∧
  decodeWord 0x1ABC = .ok (.jp 0xABC) ∧
  decodeWord 0x3A12 = .ok (.seImm 10 0x12) ∧
  decodeWord 0x5AB7 = .ok (.seReg 10 11) ∧
  decodeWord 0x8AB7 = .ok (.subn 10 11) ∧
  decodeWord 0xB123 = .ok (.jpOff 0x123 1) ∧
  decodeWord 0xC1FF = .ok (.rnd 1 0xFF) ∧
  decodeWord 0xD123 = .ok (.drw 1 2 3) ∧
  decodeWord 0xE1A1 = .ok (.sknp 1) ∧
  decodeWord 0xF165 = .ok (.load 1) ∧
  decodeWord 0x01E0 = .error (.unsupportedOpcode 0x01E0) ∧
  decodeWord 0x8ABF = .error (.unsupportedOpcode 0x8ABF)

/-! ## Steps -/

/-- A step of a core that is about to run a cycle is `exec` of the instruction that the two bytes at `pc` decode to, high byte
first, at the state whose `pc` has gone past the word and whose batch has one slot less (40_execution_cycle.md R102 to R104). The second
clause, the same after a yield of the host's plan, is about the model's own device for placing the host between steps (log
entry 8, from 40_execution_cycle.md R115). -/
def Obligations.StepRunsDecodedInstruction : Prop :=
  ∀ (s : State) (left : Nat) (w : Word) (i : Instr), s.AtCycle left → s.pc.toNat ≤ 4094 →
    w.toNat = 256 * (s.byteAt s.pc.toNat).toNat + (s.byteAt (s.pc.toNat + 1)).toNat →
    decodeWord w = .ok i →
    step s = exec i { s with pc := s.pc + 2, phase := .batch left } ∧
    ∀ rest : List HostMove, step { s with host := .yield :: rest } =
      exec i { s with pc := s.pc + 2, phase := .batch left, host := rest }

/-- A fetch that would cross address 4095 latches the bounds error with the first out-of-range address and leaves `pc` as it
was; nothing else changes, but that the slot is used (40_execution_cycle.md R103; the payload is the spec's decision D17, log entry 14). -/
def Obligations.FetchPastEndLatchesError : Prop :=
  ∀ (s : State) (left : Nat), s.AtCycle left → 4095 ≤ s.pc.toNat →
    step s = .next { s with
      phase := .batch left
      fault := some (.outOfBoundsMemoryAccess (if s.pc.toNat = 4095 then 4096 else s.pc.toNat)) }

/-- An illegal word latches `UnsupportedOpcode` with the word; everything else is as before the step, but that `pc` is two higher and
the slot is used (60_exceptions.md R243, 30_encoding.md R93; that the advance of `pc` stands in the faulted state is the spec's decision
D16, 90_conflicts.md C2, log entry 21). -/
def Obligations.IllegalWordLatchesError : Prop :=
  ∀ (s : State) (left : Nat) (w : Word), s.AtCycle left → s.pc.toNat ≤ 4094 →
    w.toNat = 256 * (s.byteAt s.pc.toNat).toNat + (s.byteAt (s.pc.toNat + 1)).toNat →
    IllegalWord w →
    step s = .next { s with
      pc := s.pc + 2
      phase := .batch left
      fault := some (.unsupportedOpcode w) }

/-- While an error is latched there is no step, whatever the host would do: the session is over (60_exceptions.md R247, the
spec's decision D24); that the step answers a fault of its own is the model's way to say so, log entry 6. -/
def Obligations.LatchedErrorEndsSession : Prop :=
  ∀ (s : State) (e : Error), s.fault = some e → step s = .fault (.sessionOver e)

/-- The frame's first action: both timers one down, saturating at zero, each on its own, and nothing else changes but that the
frame's batch is due; an idle core and one with an error latched tick nothing (60_exceptions.md R254). That an idle core's step
answers the same state is the model's choice (log entry 7). -/
def Obligations.FrameTickCountsDown : Prop :=
  ∀ s : State, s.host = [] → s.phase = .tick → s.config.frameRate ≠ 0 →
    (s.run = .running → s.fault = none → ∃ t, step s = .next t ∧
      t.dt.toNat = s.dt.toNat - 1 ∧ t.st.toNat = s.st.toNat - 1 ∧
      (∃ n, t.phase = .batch n) ∧
      t = { s with dt := t.dt, st := t.st, phase := t.phase }) ∧
    (s.run = .idle → s.fault = none → step s = .next s) ∧
    (s.fault ≠ none → ∀ t, step s ≠ .next t)

/-- The batch of a frame is `INSTR_PER_FRAME` cycles, whatever that parameter is, and `floor(IPS / FRAME_RATE)` where it has its
default; every cycle takes one of them, whatever it does, a waiting `Fx0A` included (40_execution_cycle.md section 3; the rounding
and the slot of a waiting `Fx0A` are the spec's decisions D18 and D20, log entries 23 and 26). -/
def Obligations.EveryCycleTakesOneSlot : Prop :=
  (∀ s t : State, s.fault = none → s.host = [] → s.phase = .tick → s.run = .running → step s = .next t →
    t.phase = .batch s.config.instrPerFrame ∧
    (s.config.instrPerFrame = s.config.ips / s.config.frameRate → ∃ n, t.phase = .batch n ∧
      n * s.config.frameRate ≤ s.config.ips ∧ s.config.ips < (n + 1) * s.config.frameRate)) ∧
  (∀ (s t : State) (left : Nat), s.AtCycle left → step s = .next t → t.phase = .batch left)

/-- The end of a frame hands the host the framebuffer and whether the sound timer is non-zero, and changes nothing else; the run
ends there if the host's stop signal is set, and then no step follows (40_execution_cycle.md R111, R113). That the signal is a level
and that an ended run answers a fault is the model's choice (log entry 10), and so is the field `output` (log entry 11). -/
def Obligations.FrameEndPresents : Prop :=
  ∀ s : State, s.fault = none → s.host = [] → s.run = .running → s.phase = .batch 0 →
    ∃ t, step s = .next t ∧
      t.output = some { fb := s.fb, tone := decide (s.st.toNat ≠ 0) } ∧
      t = { s with output := t.output, phase := t.phase } ∧
      (s.stop = false → t.phase = .tick) ∧
      (s.stop = true → step t = .fault .stoppedByHost)

/-! ## The host -/

/-- `LoadProgram` in `Idle`: at most 3584 bytes are copied to 0x200 and up and nothing else changes; more are refused with
`ProgramTooLarge`; a running core takes none (20_memory.md section 2; that it needs `Idle` is the spec's decision D22; the outcomes a
refused event answers are the model's, log entry 24). -/
def Obligations.LoadProgramCopies : Prop :=
  ∀ (s : State) (bytes : List Byte) (rest : List HostMove), s.fault = none → s.phase ≠ .over →
    s.host = .event (.loadProgram bytes) :: rest →
    (s.Canonical → s.run = .idle → bytes.length ≤ 3584 → ∃ t, step s = .next t ∧
      (∀ (j : Nat) (h : j < bytes.length), t.byteAt (0x200 + j) = bytes[j]) ∧
      (∀ a : Nat, (a < 0x200 ∨ 0x200 + bytes.length ≤ a) → t.byteAt a = s.byteAt a) ∧
      t = { s with mem := t.mem, host := rest }) ∧
    (s.run = .idle → 3584 < bytes.length → step s = .fault .programTooLarge) ∧
    (s.run = .running → step s = .refused .hostEventNotEnabled)

/-- `Start` makes an idle core `Running` and changes nothing else; under `FRAME_RATE = 0` it is refused, and a running core takes
none (40_execution_cycle.md sections 1 and 3; `Start` and the refusal are the spec's decisions D29 and D18; the outcomes a refused
event answers are the model's, log entries 23 and 24). -/
def Obligations.StartRunsTheCore : Prop :=
  ∀ (s : State) (rest : List HostMove), s.fault = none → s.phase ≠ .over → s.host = .event .start :: rest →
    (s.run = .idle → s.config.frameRate ≠ 0 → step s = .next { s with run := .running, host := rest }) ∧
    (s.run = .idle → s.config.frameRate = 0 → step s = .refused .frameRateZero) ∧
    (s.run = .running → step s = .refused .hostEventNotEnabled)

/-- `SetKey(k, b)` sets the one key and changes nothing else, in either run state: 40_execution_cycle.md R112 says always, R101 does not
list it among the operations of `Idle`, and the model follows R112 (log entry 8). -/
def Obligations.SetKeyChangesOneKey : Prop :=
  ∀ (s : State) (k : Index16) (b : Bool) (rest : List HostMove), s.fault = none → s.phase ≠ .over →
    s.host = .event (.setKey k b) :: rest →
    ∃ t, step s = .next t ∧ t.keys[k] = b ∧ (∀ j : Index16, j ≠ k → t.keys[j] = s.keys[j]) ∧
      t = { s with keys := t.keys, host := rest }

/-- The host's stop signal is set, or withdrawn, in either run state, and nothing else changes (40_execution_cycle.md R112, R113); that it
is held as a level is the model's choice (log entry 10). -/
def Obligations.StopEventSetsLevel : Prop :=
  ∀ (s : State) (level : Bool) (rest : List HostMove), s.fault = none → s.phase ≠ .over →
    s.host = .event (.setStop level) :: rest →
    ∃ t, step s = .next t ∧ t.stop = level ∧ t = { s with stop := t.stop, host := rest }

/-- The boot sequence under any configuration of positive `FRAME_RATE`: after `Reset`, `LoadProgram`, `Start` and the first `Tick` the
first frame's batch is due at 0x200 with the program in memory and the timers still zero; if the batch has a slot the core is about
to run its first cycle, and if it has none no cycle is due (70_reset_and_hazards.md section 2, 40_execution_cycle.md section 3). That
this takes three steps is how the model cuts it (log entry 22). -/
def Obligations.BootReachesFirstCycle : Prop :=
  ∀ (c : Config) (bytes : List Byte), c.frameRate ≠ 0 → bytes.length ≤ 3584 →
    ∃ t, Host.Core.run core 3
        { State.resetWith c with host := [.event (.loadProgram bytes), .event .start] } = .next t ∧
      t.run = .running ∧ t.fault = none ∧ t.host = [] ∧ t.phase = .batch c.instrPerFrame ∧
      (∀ left : Nat, c.instrPerFrame = left + 1 → t.AtCycle left) ∧
      t.pc = 0x200 ∧ t.dt = 0 ∧ t.st = 0 ∧
      ∀ (j : Nat) (h : j < bytes.length), t.byteAt (0x200 + j) = bytes[j]

/-! ## Reset -/

/-- What reset leaves, under any configuration: the source's list, the font table where it belongs, and the configured values of
the registers, of the other bytes and of the keys (10_state.md section 12; `RESET_V`, `RESET_FILL`, `KEYS0` and the glyph bytes are
the spec's decisions D2, D3, D4 and D12). -/
def Obligations.ResetLeavesListedValues : Prop :=
  ∀ (c : Config) (s : State), s = State.resetWith c → c.fontData.length = 80 →
    s.pc.toNat = 0x200 ∧ s.index = 0 ∧ s.stack = [] ∧ s.dt = 0 ∧ s.st = 0 ∧
    s.run = .idle ∧ s.fault = none ∧
    (∀ (r : Fin 32) (col : Fin 64), s.fb[r][col] = false) ∧
    (∀ k : Index16, s.v[k] = c.resetV ∧ s.keys[k] = c.keys0[k]) ∧
    (∀ (j : Nat) (h : j < c.fontData.length), s.byteAt (0x050 + j) = c.fontData[j]) ∧
    (∀ a : Nat, (a < 0x050 ∨ 0x0A0 ≤ a) → s.byteAt a = c.resetFill)

/-- Reset meets the invariants, under any configuration, and the default configuration is one of R6: `FONT_DATA` has 80 bytes,
`FRAME_RATE` is positive and `INSTR_PER_FRAME` is the floor of the quotient. That `FRAME_RATE` is positive in `State.reset` rests on the
model's own value for it (log entry 2), for which R6 gives no default. -/
def Obligations.ResetMeetsInvariants : Prop :=
  (∀ c : Config, (State.resetWith c).Canonical ∧ (State.resetWith c).InRange) ∧
  State.reset.Canonical ∧ State.reset.InRange ∧ configWf State.reset.config = true ∧
  State.reset.config.instrPerFrame = State.reset.config.ips / State.reset.config.frameRate

/-! ## Memory -/

/-- `MemWrite`: inside the bounds exactly the span's bytes change, each to its own byte; past them the error, and nothing is
written (20_memory.md R53). -/
def Obligations.MemWriteChangesSpan : Prop :=
  ∀ (s : State) (a : Nat) (bytes : List Byte), s.Canonical → 1 ≤ bytes.length →
    (a + bytes.length ≤ 4096 → ∃ t, s.memWrite a bytes = .ok t ∧
      (∀ (j : Nat) (h : j < bytes.length), t.byteAt (a + j) = bytes[j]) ∧
      (∀ b : Nat, (b < a ∨ a + bytes.length ≤ b) → t.byteAt b = s.byteAt b) ∧
      t = { s with mem := t.mem }) ∧
    (4096 < a + bytes.length → ∃ b, s.memWrite a bytes = .error (.outOfBoundsMemoryAccess b))

/-- `MemRead`: inside the bounds the span's bytes in order; past them the error, an empty span included when it starts above
4096 (20_memory.md section 2; the empty span is the spec's decision D19). -/
def Obligations.MemReadReturnsSpan : Prop :=
  ∀ (s : State) (a n : Nat),
    (a + n ≤ 4096 → ∃ bytes, s.memRead a n = .ok bytes ∧ bytes.length = n ∧
      ∀ j : Nat, j < n → bytes[j]? = some (s.byteAt (a + j))) ∧
    (4096 < a + n → ∃ b, s.memRead a n = .error (.outOfBoundsMemoryAccess b))

/-! ## Invariants -/

/-- Every step keeps memory in its canonical form: addresses strictly rising below 4096, no entry that says what an unlisted
address reads as (the form is the model's way to hold memory, log entry 13). -/
def Obligations.StepKeepsMemoryCanonical : Prop :=
  ∀ s t : State, s.Canonical → step s = .next t → t.Canonical

/-- Every step keeps the ranges of 10_state.md R36: `pc` at most 0x10FE, every stack entry a post-fetch counter, 2 to 4096. -/
def Obligations.StepKeepsRanges : Prop :=
  ∀ s t : State, s.InRange → step s = .next t → t.InRange

/-- A session's configuration never changes, a running core never goes idle, and no step leaves a state with an error latched
(10_state.md R31, R32); and the model's own counter of drawn bytes (log entry 12) never falls. -/
def Obligations.StepKeepsSession : Prop :=
  ∀ s t : State, step s = .next t →
    t.config = s.config ∧ (s.run = .running → t.run = .running) ∧ s.draws ≤ t.draws ∧ s.fault = none

/-! ## All instructions -/

/-- Every instruction answers a next state in every state, and all but the seven with an execute-stage error leave the latch as
it was (60_exceptions.md section 1). -/
def Obligations.ExecAlwaysAnswers : Prop :=
  ∀ (i : Instr) (s : State), ∃ t, exec i s = .next t ∧ (canRaise i = false → t.fault = s.fault)

/-- An instruction that raises has changed nothing but the latch (40_execution_cycle.md section 2, 60_exceptions.md section 2). -/
def Obligations.RaisingChangesNothingElse : Prop :=
  ∀ (i : Instr) (s t : State), s.fault = none → exec i s = .next t → t.fault ≠ none →
    t = { s with fault := t.fault }

/-- Each component is written by the instructions that 10_state.md R20, R24 and R25 name and by no other, `pc` being that of the execute
stage; no instruction touches the configuration, the run state, the frame's position, the host's plan or its outputs. The count of
draws is the model's own (log entry 12). -/
def Obligations.OnlyNamedInstructionsWrite : Prop :=
  ∀ (i : Instr) (s t : State), exec i s = .next t →
    t.config = s.config ∧ t.run = s.run ∧ t.phase = s.phase ∧ t.stop = s.stop ∧ t.output = s.output ∧
    t.host = s.host ∧
    (storesToMemory i = false → ∀ a : Nat, t.byteAt a = s.byteAt a) ∧
    (reachesDisplay i = false → t.fb = s.fb) ∧
    (writesKeys i = false → t.keys = s.keys) ∧
    (writesDt i = false → t.dt = s.dt) ∧
    (writesSt i = false → t.st = s.st) ∧
    (reachesStack i = false → t.stack = s.stack) ∧
    (mayWriteIndex i = false → t.index = s.index) ∧
    (mayWritePc i = false → t.pc = s.pc) ∧
    (drawsByte i = false → t.draws = s.draws)

/-- The instructions of the table of 10_state.md R23, and those whose destination is register 15, are the only ones that write
`VF` (that `Fx1E` is none of them is the spec's decision D9, log entry 16). -/
def Obligations.FlagWrittenOnlyByNamed : Prop :=
  ∀ (i : Instr) (s t : State), exec i s = .next t → mayWriteFlag i = false → t.v[15] = s.v[15]

/-- The framebuffer, the keypad and the timers are reached only by the instructions that 20_memory.md R67 names: every other one
neither reads nor writes them, so it does the same whatever they hold and leaves them as they are. For `Cxnn` this is for the same byte
drawn (40_execution_cycle.md R106): both sides draw the model's free byte at the same count (log entry 12), and R114 gives no law
that two executions on the hardware draw equal bytes. -/
def Obligations.DevicesReachedOnlyByNamed : Prop :=
  ∀ (i : Instr) (s : State),
    (reachesDisplay i = false → ∀ fb : Framebuffer,
      exec i { s with fb := fb } = mapNext (fun t => { t with fb := fb }) (exec i s)) ∧
    (reachesKeypad i = false → ∀ keys : Vector Bool 16,
      exec i { s with keys := keys } = mapNext (fun t => { t with keys := keys }) (exec i s)) ∧
    (reachesTimers i = false → ∀ dt st : Byte,
      exec i { s with dt := dt, st := st } = mapNext (fun t => { t with dt := dt, st := st }) (exec i s))

/-- The run state, the frame's position, the host and its outputs are invisible to the program (10_state.md sections 10 and 11): an
instruction does the same to the rest of the state whatever they are, and leaves them as they are. All but the run state are the
model's own fields (log entries 8 to 11). For `Cxnn` this is for the same byte drawn (40_execution_cycle.md R106): both sides draw
the model's free byte at the same count (log entry 12), and R114 gives no law that two executions draw equal bytes. -/
def Obligations.BookkeepingInvisibleToProgram : Prop :=
  ∀ (i : Instr) (s : State) (run : RunState) (phase : Phase) (stop : Bool) (output : Option FrameOutput)
    (host : List HostMove),
    exec i { s with run := run, phase := phase, stop := stop, output := output, host := host } =
      mapNext (fun t => { t with run := run, phase := phase, stop := stop, output := output, host := host })
        (exec i s)

/-! ## Control transfer -/

/-- `00EE`: the most recently pushed entry becomes `pc` and leaves the stack; on an empty stack the error is latched and nothing
else changes (41_control_flow.md R131). -/
def Obligations.RetPopsThePc : Prop :=
  RowDecodes 0xFFFF#16 0x00EE#16 (fun _ => .ret) ∧
  (∀ (s : State) (rest : List Word) (a : Word), s.stack = rest ++ [a] →
    ∃ t, exec .ret s = .next t ∧ t.pc = a ∧ t.stack = rest ∧
      Frame { pc := true, stack := true } s t) ∧
  (∀ s : State, s.stack = [] → exec .ret s = .next { s with fault := some .stackUnderflow })

/-- `1nnn`: `pc` becomes `nnn`, unchecked (41_control_flow.md R132). -/
def Obligations.JumpSetsThePc : Prop :=
  RowDecodes 0xF000#16 0x1000#16 (fun w => .jp (wordAddr w)) ∧
  ∀ (s : State) (nnn : Addr12), ∃ t, exec (.jp nnn) s = .next t ∧
    t.pc.toNat = nnn.toNat ∧ Frame { pc := true } s t

/-- `2nnn`: the post-fetch counter is pushed and `pc` becomes `nnn` (41_control_flow.md R133). -/
def Obligations.CallPushesThePc : Prop :=
  RowDecodes 0xF000#16 0x2000#16 (fun w => .call (wordAddr w)) ∧
  ∀ (s : State) (nnn : Addr12), ∃ t, exec (.call nnn) s = .next t ∧
    t.pc.toNat = nnn.toNat ∧ t.stack = s.stack ++ [s.pc] ∧ Frame { pc := true, stack := true } s t

/-- A return undoes a call: from every state whose stack is what the call left, `00EE` takes `pc` back to the counter after the
call and the stack to what it was (95_test_vectors.md S3). -/
def Obligations.ReturnUndoesCall : Prop :=
  ∀ (s : State) (nnn : Addr12), ∃ t, exec (.call nnn) s = .next t ∧
    ∀ t' : State, t'.stack = t.stack → ∃ u, exec .ret t' = .next u ∧ u.pc = s.pc ∧ u.stack = s.stack ∧
      u.fault = t'.fault

/-- `3xnn` and `4xnn`: `pc` is two further when the register is, or is not, the byte, and stays otherwise
(41_control_flow.md R134, R135). -/
def Obligations.SkipOnImmediate : Prop :=
  RowDecodes 0xF000#16 0x3000#16 (fun w => .seImm (wordX w) (wordLow w)) ∧
  RowDecodes 0xF000#16 0x4000#16 (fun w => .sneImm (wordX w) (wordLow w)) ∧
  ∀ (s : State) (x : Index16) (nn : Byte),
    (∃ t, exec (.seImm x nn) s = .next t ∧
      t.pc = (if s.v[x].toNat = nn.toNat then s.pc + 2 else s.pc) ∧ Frame { pc := true } s t) ∧
    (∃ t, exec (.sneImm x nn) s = .next t ∧
      t.pc = (if s.v[x].toNat = nn.toNat then s.pc else s.pc + 2) ∧ Frame { pc := true } s t)

/-- `5xyn` and `9xyn`: the same between two registers, whatever the low nibble of the word is (41_control_flow.md, `5xyn` and
`9xyn`; that the nibble is ignored is the spec's decision D10). -/
def Obligations.SkipOnRegisters : Prop :=
  RowDecodes 0xF000#16 0x5000#16 (fun w => .seReg (wordX w) (wordY w)) ∧
  RowDecodes 0xF000#16 0x9000#16 (fun w => .sneReg (wordX w) (wordY w)) ∧
  ∀ (s : State) (x y : Index16),
    (∃ t, exec (.seReg x y) s = .next t ∧
      t.pc = (if s.v[x].toNat = s.v[y].toNat then s.pc + 2 else s.pc) ∧ Frame { pc := true } s t) ∧
    (∃ t, exec (.sneReg x y) s = .next t ∧
      t.pc = (if s.v[x].toNat = s.v[y].toNat then s.pc else s.pc + 2) ∧ Frame { pc := true } s t)

/-- `Bnnn`: `pc` becomes `nnn` plus the offset register, not reduced modulo 4096, under either setting of `Q_JUMP_REG`
(41_control_flow.md, `Bnnn`; the meaning of the setting `VX` is the spec's decision D13). -/
def Obligations.JumpWithOffset : Prop :=
  RowDecodes 0xF000#16 0xB000#16 (fun w => .jpOff (wordAddr w) (wordX w)) ∧
  ∀ (s : State) (nnn : Addr12) (x : Index16),
    ∃ t, exec (.jpOff nnn x) s = .next t ∧
      t.pc.toNat = nnn.toNat + (if s.config.jumpReg = .v0 then s.v[0].toNat else s.v[x].toNat) ∧
      Frame { pc := true } s t

/-! ## Load, arithmetic, logic, shift, random -/

/-- `6xnn` (42_load_alu.md R151). -/
def Obligations.LoadImmediate : Prop :=
  RowDecodes 0xF000#16 0x6000#16 (fun w => .ldImm (wordX w) (wordLow w)) ∧
  ∀ (s : State) (x : Index16) (nn : Byte), ∃ t, exec (.ldImm x nn) s = .next t ∧
    t.v[x] = nn ∧ Frame { regs := [x] } s t

/-- `7xnn`: the sum wraps and no flag is recorded (42_load_alu.md R152). -/
def Obligations.AddImmediateWraps : Prop :=
  RowDecodes 0xF000#16 0x7000#16 (fun w => .addImm (wordX w) (wordLow w)) ∧
  ∀ (s : State) (x : Index16) (nn : Byte), ∃ t, exec (.addImm x nn) s = .next t ∧
    t.v[x].toNat = (s.v[x].toNat + nn.toNat) % 256 ∧ Frame { regs := [x] } s t

/-- `8xy0`: a copy, no flag (42_load_alu.md, `8xy0`; the meaning is the spec's decision D6). -/
def Obligations.CopyRegister : Prop :=
  RowDecodes 0xF00F#16 0x8000#16 (fun w => .ldReg (wordX w) (wordY w)) ∧
  ∀ (s : State) (x y : Index16), ∃ t, exec (.ldReg x y) s = .next t ∧
    t.v[x] = s.v[y] ∧ Frame { regs := [x] } s t

/-- `8xy1`, `8xy2`, `8xy3`: the bitwise result, and `VF` cleared (42_load_alu.md, `8xy1` to `8xy3`; that the flag is written last
is the spec's decision D5). -/
def Obligations.LogicClearsFlag : Prop :=
  RowDecodes 0xF00F#16 0x8001#16 (fun w => .orReg (wordX w) (wordY w)) ∧
  RowDecodes 0xF00F#16 0x8002#16 (fun w => .andReg (wordX w) (wordY w)) ∧
  RowDecodes 0xF00F#16 0x8003#16 (fun w => .xorReg (wordX w) (wordY w)) ∧
  ∀ (s : State) (x y : Index16),
    (∃ t, exec (.orReg x y) s = .next t ∧ t.v[15] = 0 ∧
      (x ≠ 15 → ∀ k : Fin 8, t.v[x][k] = (s.v[x][k] || s.v[y][k])) ∧ Frame { regs := [x, 15] } s t) ∧
    (∃ t, exec (.andReg x y) s = .next t ∧ t.v[15] = 0 ∧
      (x ≠ 15 → ∀ k : Fin 8, t.v[x][k] = (s.v[x][k] && s.v[y][k])) ∧ Frame { regs := [x, 15] } s t) ∧
    (∃ t, exec (.xorReg x y) s = .next t ∧ t.v[15] = 0 ∧
      (x ≠ 15 → ∀ k : Fin 8, t.v[x][k] = (s.v[x][k] ^^ s.v[y][k])) ∧ Frame { regs := [x, 15] } s t)

/-- `8xy4`: the sum wraps, and `VF` is 1 exactly when it passed 255 (42_load_alu.md, `8xy4`; flag last: D5). -/
def Obligations.AddSetsCarry : Prop :=
  RowDecodes 0xF00F#16 0x8004#16 (fun w => .addReg (wordX w) (wordY w)) ∧
  ∀ (s : State) (x y : Index16), ∃ t, exec (.addReg x y) s = .next t ∧
    (x ≠ 15 → t.v[x].toNat = (s.v[x].toNat + s.v[y].toNat) % 256) ∧
    t.v[15].toNat = (if s.v[x].toNat + s.v[y].toNat > 255 then 1 else 0) ∧
    Frame { regs := [x, 15] } s t

/-- `8xy5` and `8xy7`: the difference wraps, and `VF` is 1 exactly when no borrow was needed (42_load_alu.md, `8xy5` and `8xy7`;
which operand is the minuend is the spec's decision D7, flag last D5). -/
def Obligations.SubtractSetsNoBorrow : Prop :=
  RowDecodes 0xF00F#16 0x8005#16 (fun w => .sub (wordX w) (wordY w)) ∧
  RowDecodes 0xF00F#16 0x8007#16 (fun w => .subn (wordX w) (wordY w)) ∧
  ∀ (s : State) (x y : Index16),
    (∃ t, exec (.sub x y) s = .next t ∧
      (x ≠ 15 → (t.v[x].toNat : Int) = ((s.v[x].toNat : Int) - s.v[y].toNat) % 256) ∧
      t.v[15].toNat = (if s.v[x].toNat ≥ s.v[y].toNat then 1 else 0) ∧ Frame { regs := [x, 15] } s t) ∧
    (∃ t, exec (.subn x y) s = .next t ∧
      (x ≠ 15 → (t.v[x].toNat : Int) = ((s.v[y].toNat : Int) - s.v[x].toNat) % 256) ∧
      t.v[15].toNat = (if s.v[y].toNat ≥ s.v[x].toNat then 1 else 0) ∧ Frame { regs := [x, 15] } s t)

/-- `8xy6` and `8xyE`: the source register by `Q_SHIFT_SRC` shifted by one bit, and `VF` the bit shifted out (42_load_alu.md,
`8xy6` and `8xyE`; which one shifts right is the spec's decision D7, log entry 16; flag last D5, log entry 15; what the setting `VX`
means D13, log entry 19). -/
def Obligations.ShiftsByOneBit : Prop :=
  RowDecodes 0xF00F#16 0x8006#16 (fun w => .shr (wordX w) (wordY w)) ∧
  RowDecodes 0xF00F#16 0x800E#16 (fun w => .shl (wordX w) (wordY w)) ∧
  ∀ (s : State) (x y : Index16) (b : Byte), b = (if s.config.shiftSrc = .vy then s.v[y] else s.v[x]) →
    (∃ t, exec (.shr x y) s = .next t ∧ (x ≠ 15 → t.v[x].toNat = b.toNat / 2) ∧
      t.v[15].toNat = b.toNat % 2 ∧ Frame { regs := [x, 15] } s t) ∧
    (∃ t, exec (.shl x y) s = .next t ∧ (x ≠ 15 → t.v[x].toNat = 2 * b.toNat % 256) ∧
      t.v[15].toNat = b.toNat / 128 ∧ Frame { regs := [x, 15] } s t)

/-- `Cxnn`: a byte drawn for this execution, ANDed with `nn`, so no bit outside `nn` is set (42_load_alu.md R162, 40_execution_cycle.md
R114). The byte is the model's free value `Config.freeByte`, of which nothing is known, at the count of draws before, and the count
goes up by one, so that the next execution draws another byte (log entry 12). -/
def Obligations.RandomIsMasked : Prop :=
  RowDecodes 0xF000#16 0xC000#16 (fun w => .rnd (wordX w) (wordLow w)) ∧
  ∀ (s : State) (x : Index16) (nn : Byte), ∃ t, exec (.rnd x nn) s = .next t ∧
    (∀ k : Fin 8, t.v[x][k] = ((Config.freeByte s.draws)[k] && nn[k])) ∧ t.v[x] &&& ~~~nn = 0 ∧
    t.draws = s.draws + 1 ∧ Frame { regs := [x], draws := true } s t

/-! ## Index register and memory -/

/-- `Annn` (43_index_memory.md R181). -/
def Obligations.LoadIndex : Prop :=
  RowDecodes 0xF000#16 0xA000#16 (fun w => .ldI (wordAddr w)) ∧
  ∀ (s : State) (nnn : Addr12), ∃ t, exec (.ldI nnn) s = .next t ∧
    t.index.toNat = nnn.toNat ∧ Frame { index := true } s t

/-- `Fx1E`: `I + Vx` modulo 65536, unchecked, no flag (43_index_memory.md, `Fx1E`; the wrap and the flag are the spec's decisions
D1 and D9). -/
def Obligations.AddToIndexWraps : Prop :=
  RowDecodes 0xF0FF#16 0xF01E#16 (fun w => .addI (wordX w)) ∧
  ∀ (s : State) (x : Index16), ∃ t, exec (.addI x) s = .next t ∧
    t.index.toNat = (s.index.toNat + s.v[x].toNat) % 65536 ∧ Frame { index := true } s t

/-- `Fx29`: the address of the glyph of the low nibble (43_index_memory.md R184). -/
def Obligations.FontLookup : Prop :=
  RowDecodes 0xF0FF#16 0xF029#16 (fun w => .ldFont (wordX w)) ∧
  ∀ (s : State) (x : Index16), ∃ t, exec (.ldFont x) s = .next t ∧
    t.index.toNat = 0x050 + 5 * (s.v[x].toNat % 16) ∧ Frame { index := true } s t

/-- `Fx33`: the decimal digits of `Vx` at `I`, `I + 1`, `I + 2`, all three or none (43_index_memory.md R185). -/
def Obligations.BcdStoresDigits : Prop :=
  RowDecodes 0xF0FF#16 0xF033#16 (fun w => .bcd (wordX w)) ∧
  ∀ (s : State) (x : Index16),
    (s.Canonical → s.index.toNat + 3 ≤ 4096 → ∃ t, exec (.bcd x) s = .next t ∧
      (t.byteAt s.index.toNat).toNat = s.v[x].toNat / 100 ∧
      (t.byteAt (s.index.toNat + 1)).toNat = s.v[x].toNat / 10 % 10 ∧
      (t.byteAt (s.index.toNat + 2)).toNat = s.v[x].toNat % 10 ∧
      Frame { storeAt := s.index.toNat, storeLen := 3 } s t) ∧
    (4096 < s.index.toNat + 3 →
      ∃ a, exec (.bcd x) s = .next { s with fault := some (.outOfBoundsMemoryAccess a) })

/-- `Fx55`: `V0` to `Vx` at `I` and up, all or none, and `I` moved past them under `Q_INDEX_INC` (43_index_memory.md, `Fx55`; that the
setting false leaves `I` is the spec's decision D13, log entry 19). -/
def Obligations.BlockStore : Prop :=
  RowDecodes 0xF0FF#16 0xF055#16 (fun w => .store (wordX w)) ∧
  ∀ (s : State) (x : Index16),
    (s.Canonical → s.index.toNat + (x.val + 1) ≤ 4096 → ∃ t, exec (.store x) s = .next t ∧
      (∀ k : Index16, k ≤ x → t.byteAt (s.index.toNat + k.val) = s.v[k]) ∧
      t.index.toNat = s.index.toNat + (if s.config.indexInc then x.val + 1 else 0) ∧
      Frame { index := true, storeAt := s.index.toNat, storeLen := x.val + 1 } s t) ∧
    (4096 < s.index.toNat + (x.val + 1) →
      ∃ a, exec (.store x) s = .next { s with fault := some (.outOfBoundsMemoryAccess a) })

/-- `Fx65`: `V0` to `Vx` from `I` and up, all or none, registers above `x` and memory unchanged, and `I` moved past the block under
`Q_INDEX_INC` (43_index_memory.md, `Fx65`; that the setting false leaves `I` is the spec's decision D13, log entry 19). -/
def Obligations.BlockLoad : Prop :=
  RowDecodes 0xF0FF#16 0xF065#16 (fun w => .load (wordX w)) ∧
  ∀ (s : State) (x : Index16),
    (s.index.toNat + (x.val + 1) ≤ 4096 → ∃ t, exec (.load x) s = .next t ∧
      (∀ k : Index16, k ≤ x → t.v[k] = s.byteAt (s.index.toNat + k.val)) ∧
      t.index.toNat = s.index.toNat + (if s.config.indexInc then x.val + 1 else 0) ∧
      Frame { regs := (List.finRange 16).filter (fun k => k ≤ x), index := true } s t) ∧
    (4096 < s.index.toNat + (x.val + 1) →
      ∃ a, exec (.load x) s = .next { s with fault := some (.outOfBoundsMemoryAccess a) })

/-- Self-modifying code: two registers stored over the word at `pc` are the word the next fetch forms, `V0` its high byte
(20_memory.md R65). -/
def Obligations.StoredWordIsFetched : Prop :=
  ∀ (s : State) (x : Index16), s.Canonical → 1 ≤ x.val → s.index = s.pc →
    s.index.toNat + (x.val + 1) ≤ 4096 →
    ∃ t w, exec (.store x) s = .next t ∧ t.fetch = .ok w ∧ w.toNat = 256 * s.v[0].toNat + s.v[1].toNat

/-! ## Display -/

/-- `00E0`: every pixel false, `VF` untouched (44_display.md R201). -/
def Obligations.ClearDisplay : Prop :=
  RowDecodes 0xFFFF#16 0x00E0#16 (fun _ => .cls) ∧
  ∀ s : State, ∃ t, exec .cls s = .next t ∧
    (∀ (r : Fin 32) (c : Fin 64), t.fb[r][c] = false) ∧ Frame { fb := true } s t

/-- `Dxyn`: the pixels that the sprite's 1 bits cover, the origin reduced or not by `Q_ORIGIN` and the body clipped, are toggled and
no others; `VF` is 1 exactly when a covered pixel was set; a sprite that passes the end of memory draws nothing
(44_display.md, `Dxyn`; the bit order and the setting `CLIP` are the spec's decisions D11 and D13). -/
def Obligations.DrawTogglesCoveredPixels : Prop :=
  RowDecodes 0xF000#16 0xD000#16 (fun w => .drw (wordX w) (wordY w) (wordN w)) ∧
  ∀ (s : State) (x y : Index16) (n : Nibble) (sprite : List Byte) (row col : Nat),
    sprite = (List.range n.toNat).map (fun j => s.byteAt (s.index.toNat + j)) →
    row = (if s.config.origin = .wrap then s.v[y].toNat % 32 else s.v[y].toNat) →
    col = (if s.config.origin = .wrap then s.v[x].toNat % 64 else s.v[x].toNat) →
    (s.index.toNat + n.toNat ≤ 4096 → ∃ t, exec (.drw x y n) s = .next t ∧
      (∀ (r : Fin 32) (c : Fin 64), t.fb[r][c] = (s.fb[r][c] ^^ spriteCovers sprite row col r c)) ∧
      ((∃ (r : Fin 32) (c : Fin 64), spriteCovers sprite row col r c = true ∧ s.fb[r][c] = true) →
        t.v[15] = 1) ∧
      ((∀ (r : Fin 32) (c : Fin 64), spriteCovers sprite row col r c = true → s.fb[r][c] = false) →
        t.v[15] = 0) ∧
      Frame { regs := [15], fb := true } s t) ∧
    (4096 < s.index.toNat + n.toNat →
      ∃ a, exec (.drw x y n) s = .next { s with fault := some (.outOfBoundsMemoryAccess a) })

/-- Drawing twice, the coordinates not in `VF`: the second draw restores every pixel, and its flag is 1 exactly when the first draw
set a pixel, so 1 on an area that was clear if the sprite has a visible 1 bit (44_display.md section on `Dxyn`, by
90_conflicts.md C1; the bit order is the spec's decision D11, log entry 20, and the setting `CLIP` D13, log entry 19). -/
def Obligations.DoubleDrawRestores : Prop :=
  ∀ (s : State) (x y : Index16) (n : Nibble) (sprite : List Byte) (row col : Nat), x ≠ 15 → y ≠ 15 →
    s.index.toNat + n.toNat ≤ 4096 →
    sprite = (List.range n.toNat).map (fun j => s.byteAt (s.index.toNat + j)) →
    row = (if s.config.origin = .wrap then s.v[y].toNat % 32 else s.v[y].toNat) →
    col = (if s.config.origin = .wrap then s.v[x].toNat % 64 else s.v[x].toNat) →
    ∃ t u, exec (.drw x y n) s = .next t ∧ exec (.drw x y n) t = .next u ∧ u.fb = s.fb ∧
      (u.v[15] = 1 ↔ ∃ (r : Fin 32) (c : Fin 64), spriteCovers sprite row col r c = true ∧ s.fb[r][c] = false) ∧
      ((∀ (r : Fin 32) (c : Fin 64), spriteCovers sprite row col r c = true → s.fb[r][c] = false) →
        t.v[15] = 0)

/-! ## Keypad and timers -/

/-- `Ex9E` and `ExA1`: a skip on the key that `Vx` names; above 15 the error is latched and nothing else changes
(45_keypad_timers.md R221, R222). -/
def Obligations.SkipOnKey : Prop :=
  RowDecodes 0xF0FF#16 0xE09E#16 (fun w => .skp (wordX w)) ∧
  RowDecodes 0xF0FF#16 0xE0A1#16 (fun w => .sknp (wordX w)) ∧
  ∀ (s : State) (x : Index16),
    (∀ k : Index16, s.v[x].toNat = k.val →
      (∃ t, exec (.skp x) s = .next t ∧
        t.pc = (if s.keys[k] = true then s.pc + 2 else s.pc) ∧ Frame { pc := true } s t) ∧
      (∃ t, exec (.sknp x) s = .next t ∧
        t.pc = (if s.keys[k] = true then s.pc else s.pc + 2) ∧ Frame { pc := true } s t)) ∧
    (15 < s.v[x].toNat →
      (∃ b, exec (.skp x) s = .next { s with fault := some (.invalidKeyIndex b) }) ∧
      (∃ b, exec (.sknp x) s = .next { s with fault := some (.invalidKeyIndex b) }))

/-- `Fx0A`: the least pressed key is reported in `Vx` and released, it alone; with no key pressed `pc` goes back by two and nothing
else changes (45_keypad_timers.md R224). -/
def Obligations.KeyReadReportsLeastKey : Prop :=
  RowDecodes 0xF0FF#16 0xF00A#16 (fun w => .ldKey (wordX w)) ∧
  ∀ (s : State) (x : Index16),
    (∀ k : Index16, s.keys[k] = true → (∀ j : Index16, j < k → s.keys[j] = false) →
      ∃ t, exec (.ldKey x) s = .next t ∧ t.v[x].toNat = k.val ∧ t.keys[k] = false ∧
        (∀ j : Index16, j ≠ k → t.keys[j] = s.keys[j]) ∧ Frame { regs := [x], keys := true } s t) ∧
    ((∀ k : Index16, s.keys[k] = false) →
      ∃ t, exec (.ldKey x) s = .next t ∧ t.pc = s.pc - 2 ∧ Frame { pc := true } s t)

/-- A core waiting for a key stays exactly as it is, step after step, but for the slot each one takes (45_keypad_timers.md
sections on `Fx0A`; the slot is the spec's decision D20). -/
def Obligations.WaitingChangesNothing : Prop :=
  ∀ (s : State) (left : Nat) (w : Word) (x : Index16), s.AtCycle left → s.pc.toNat ≤ 4094 →
    w.toNat = 256 * (s.byteAt s.pc.toNat).toNat + (s.byteAt (s.pc.toNat + 1)).toNat →
    w.toNat = 0xF00A + 256 * x.val → (∀ k : Index16, s.keys[k] = false) →
    step s = .next { s with phase := .batch left }

/-- `Fx07`, `Fx15`, `Fx18`: a byte moved between a register and a timer (45_keypad_timers.md; which does what is the spec's
decision D8). -/
def Obligations.TimerMoves : Prop :=
  RowDecodes 0xF0FF#16 0xF007#16 (fun w => .ldFromDt (wordX w)) ∧
  RowDecodes 0xF0FF#16 0xF015#16 (fun w => .ldDt (wordX w)) ∧
  RowDecodes 0xF0FF#16 0xF018#16 (fun w => .ldSt (wordX w)) ∧
  ∀ (s : State) (x : Index16),
    (∃ t, exec (.ldFromDt x) s = .next t ∧ t.v[x] = s.dt ∧ Frame { regs := [x] } s t) ∧
    (∃ t, exec (.ldDt x) s = .next t ∧ t.dt = s.v[x] ∧ Frame { dt := true } s t) ∧
    (∃ t, exec (.ldSt x) s = .next t ∧ t.st = s.v[x] ∧ Frame { st := true } s t)
end

