-- ==== Sys2Proof/Laws/Decode.lean ====
section
/-! SUPPORT. The fields of an encoded word (spec/30_encoding.md R81, R82), the fields as numbers, and what the masks of the
table of R85 compare. -/

namespace Sys2Proof

/-! ## The fields of a word that was put together -/

@[simp] theorem fieldOp_wordNNN (op : Nibble) (nnn : Addr12) : fieldOp (wordNNN op nnn) = op := by
  unfold fieldOp wordNNN
  rw [BitVec.extractLsb'_append_eq_of_le (by omega)]
  simp

@[simp] theorem fieldNNN_wordNNN (op : Nibble) (nnn : Addr12) : fieldNNN (wordNNN op nnn) = nnn := by
  unfold fieldNNN wordNNN
  rw [BitVec.extractLsb'_append_eq_of_add_le (by omega)]
  simp

@[simp] theorem fieldOp_wordXNN (op : Nibble) (x : Index16) (nn : Byte) : fieldOp (wordXNN op x nn) = op := by
  unfold fieldOp wordXNN
  rw [BitVec.extractLsb'_append_eq_of_le (by omega)]
  simp

@[simp] theorem fieldX_wordXNN (op : Nibble) (x : Index16) (nn : Byte) : fieldX (wordXNN op x nn) = x := by
  unfold fieldX wordXNN
  rw [BitVec.extractLsb'_append_eq_of_add_le (by omega), BitVec.extractLsb'_append_eq_of_le (by omega)]
  simp

@[simp] theorem fieldNN_wordXNN (op : Nibble) (x : Index16) (nn : Byte) : fieldNN (wordXNN op x nn) = nn := by
  unfold fieldNN wordXNN
  rw [BitVec.extractLsb'_append_eq_of_add_le (by omega), BitVec.extractLsb'_append_eq_of_add_le (by omega)]
  simp

@[simp] theorem fieldOp_wordXYN (op : Nibble) (x y : Index16) (n : Nibble) : fieldOp (wordXYN op x y n) = op := by
  unfold fieldOp wordXYN
  rw [BitVec.extractLsb'_append_eq_of_le (by omega)]
  simp

@[simp] theorem fieldX_wordXYN (op : Nibble) (x y : Index16) (n : Nibble) : fieldX (wordXYN op x y n) = x := by
  unfold fieldX wordXYN
  rw [BitVec.extractLsb'_append_eq_of_add_le (by omega), BitVec.extractLsb'_append_eq_of_le (by omega)]
  simp

@[simp] theorem fieldY_wordXYN (op : Nibble) (x y : Index16) (n : Nibble) : fieldY (wordXYN op x y n) = y := by
  unfold fieldY wordXYN
  rw [BitVec.extractLsb'_append_eq_of_add_le (by omega), BitVec.extractLsb'_append_eq_of_add_le (by omega),
    BitVec.extractLsb'_append_eq_of_le (by omega)]
  simp

@[simp] theorem fieldN_wordXYN (op : Nibble) (x y : Index16) (n : Nibble) : fieldN (wordXYN op x y n) = n := by
  unfold fieldN wordXYN
  rw [BitVec.extractLsb'_append_eq_of_add_le (by omega), BitVec.extractLsb'_append_eq_of_add_le (by omega),
    BitVec.extractLsb'_append_eq_of_add_le (by omega)]
  simp

/-! ## The fields as numbers -/

theorem fieldOp_toNat (w : Word) : (fieldOp w).toNat = w.toNat / 4096 := by
  have := w.isLt
  simp only [fieldOp, BitVec.extractLsb'_toNat, Nat.shiftRight_eq_div_pow]
  omega

theorem fieldX_val (w : Word) : (fieldX w).val = w.toNat / 256 % 16 := by
  simp [fieldX, Nat.shiftRight_eq_div_pow]

theorem fieldY_val (w : Word) : (fieldY w).val = w.toNat / 16 % 16 := by
  simp [fieldY, Nat.shiftRight_eq_div_pow]

theorem fieldN_toNat (w : Word) : (fieldN w).toNat = w.toNat % 16 := by
  simp [fieldN, BitVec.extractLsb'_toNat]

theorem fieldNN_toNat (w : Word) : (fieldNN w).toNat = w.toNat % 256 := by
  simp [fieldNN, BitVec.extractLsb'_toNat]

theorem fieldNNN_toNat (w : Word) : (fieldNNN w).toNat = w.toNat % 4096 := by
  simp [fieldNNN, BitVec.extractLsb'_toNat]

/-- A word is its four digits, and `nn` and `nnn` are made of the same digits (R81). -/
theorem fields_sum (w : Word) :
    w.toNat = 4096 * (fieldOp w).toNat + 256 * (fieldX w).val + 16 * (fieldY w).val + (fieldN w).toNat ∧
    (fieldNN w).toNat = 16 * (fieldY w).val + (fieldN w).toNat ∧
    (fieldNNN w).toNat = 256 * (fieldX w).val + 16 * (fieldY w).val + (fieldN w).toNat := by
  have := w.isLt
  rw [fieldOp_toNat, fieldX_val, fieldY_val, fieldN_toNat, fieldNN_toNat, fieldNNN_toNat]
  omega

theorem wordNNN_toNat (op : Nibble) (nnn : Addr12) : (wordNNN op nnn).toNat = op.toNat * 4096 + nnn.toNat := by
  have := nnn.isLt
  simp only [wordNNN, BitVec.toNat_append]
  rw [← Nat.shiftLeft_add_eq_or_of_lt (by omega), Nat.shiftLeft_eq]

theorem shiftLeft_or_eq {a b k : Nat} (h : b < 2 ^ k) : a <<< k ||| b = a * 2 ^ k + b := by
  rw [← Nat.shiftLeft_add_eq_or_of_lt h, Nat.shiftLeft_eq]

theorem wordXNN_toNat (op : Nibble) (x : Index16) (nn : Byte) :
    (wordXNN op x nn).toNat = op.toNat * 4096 + x.val * 256 + nn.toNat := by
  have := nn.isLt
  have := x.isLt
  simp only [wordXNN, BitVec.toNat_append, BitVec.toNat_ofFin]
  rw [shiftLeft_or_eq (a := x.val) (by omega), shiftLeft_or_eq (by omega)]
  omega

theorem wordXYN_toNat (op : Nibble) (x y : Index16) (n : Nibble) :
    (wordXYN op x y n).toNat = op.toNat * 4096 + x.val * 256 + y.val * 16 + n.toNat := by
  have := n.isLt
  have := x.isLt
  have := y.isLt
  simp only [wordXYN, BitVec.toNat_append, BitVec.toNat_ofFin]
  rw [shiftLeft_or_eq (a := y.val) (by omega), shiftLeft_or_eq (a := x.val) (by omega),
    shiftLeft_or_eq (by omega)]
  omega

theorem wordOfBytes_toNat (high low : Byte) : (wordOfBytes high low).toNat = high.toNat * 256 + low.toNat := by
  have := low.isLt
  simp only [wordOfBytes, BitVec.toNat_append]
  rw [← Nat.shiftLeft_add_eq_or_of_lt (by omega), Nat.shiftLeft_eq]

/-- A word's two bytes put together again are the word (20_memory.md R57). -/
theorem wordOfBytes_bytesOfWord (w : Word) : wordOfBytes (w.extractLsb' 8 8) (w.extractLsb' 0 8) = w := by
  apply BitVec.eq_of_toNat_eq
  have := w.isLt
  rw [wordOfBytes_toNat]
  simp only [BitVec.extractLsb'_toNat, Nat.shiftRight_eq_div_pow]
  omega

/-! ## The masks of R85 -/

theorem toNat_and_opMask (w : Word) : (w &&& 0xF000#16).toNat = w.toNat / 4096 * 4096 := by
  have h : w &&& 0xF000#16 = (w >>> 12) <<< 12 := by
    ext i hi
    interval_cases i <;> simp
  have := w.isLt
  rw [h, BitVec.toNat_shiftLeft, BitVec.toNat_ushiftRight, Nat.shiftRight_eq_div_pow, Nat.shiftLeft_eq]
  omega

theorem toNat_and_xykMask (w : Word) : (w &&& 0xF00F#16).toNat = w.toNat / 4096 * 4096 + w.toNat % 16 := by
  have h : w &&& 0xF00F#16 = wordNNN (fieldOp w) ((fieldN w).setWidth 12) := by
    apply BitVec.eq_of_getLsbD_eq
    intro i hi
    simp only [wordNNN, fieldOp, fieldN, BitVec.getLsbD_and, BitVec.getLsbD_append, BitVec.getLsbD_extractLsb',
      BitVec.getLsbD_setWidth]
    interval_cases i <;> simp
  rw [h, wordNNN_toNat, fieldOp_toNat, BitVec.toNat_setWidth, fieldN_toNat]
  omega

theorem toNat_and_xkkMask (w : Word) : (w &&& 0xF0FF#16).toNat = w.toNat / 4096 * 4096 + w.toNat % 256 := by
  have h : w &&& 0xF0FF#16 = wordNNN (fieldOp w) ((fieldNN w).setWidth 12) := by
    apply BitVec.eq_of_getLsbD_eq
    intro i hi
    simp only [wordNNN, fieldOp, fieldNN, BitVec.getLsbD_and, BitVec.getLsbD_append, BitVec.getLsbD_extractLsb',
      BitVec.getLsbD_setWidth]
    interval_cases i <;> simp
  rw [h, wordNNN_toNat, fieldOp_toNat, BitVec.toNat_setWidth, fieldNN_toNat]
  omega

theorem and_fixedMask (w : Word) : w &&& 0xFFFF#16 = w := by
  have h : (0xFFFF#16 : Word) = BitVec.allOnes 16 := by decide
  rw [h, BitVec.and_allOnes]

/-! ## The rows of R85 as conditions on the fields -/

theorem row_op {k : Nat} {p : Word} (hp : p.toNat = k * 4096) (w : Word) :
    w &&& 0xF000#16 = p ↔ (fieldOp w).toNat = k := by
  rw [← BitVec.toNat_inj, toNat_and_opMask, fieldOp_toNat, hp]
  omega

theorem row_xyk {k n : Nat} {p : Word} (hp : p.toNat = k * 4096 + n) (hn : n < 16) (w : Word) :
    w &&& 0xF00F#16 = p ↔ (fieldOp w).toNat = k ∧ (fieldN w).toNat = n := by
  rw [← BitVec.toNat_inj, toNat_and_xykMask, fieldOp_toNat, fieldN_toNat, hp]
  omega

theorem row_xkk {k n : Nat} {p : Word} (hp : p.toNat = k * 4096 + n) (hn : n < 256) (w : Word) :
    w &&& 0xF0FF#16 = p ↔ (fieldOp w).toNat = k ∧ (fieldNN w).toNat = n := by
  rw [← BitVec.toNat_inj, toNat_and_xkkMask, fieldOp_toNat, fieldNN_toNat, hp]
  omega

theorem row_fixed {n : Nat} {p : Word} (hp : p.toNat = n) (hn : n < 4096) (w : Word) :
    w &&& 0xFFFF#16 = p ↔ (fieldOp w).toNat = 0 ∧ (fieldNNN w).toNat = n := by
  have := w.isLt
  rw [and_fixedMask, ← BitVec.toNat_inj, fieldOp_toNat, fieldNNN_toNat, hp]
  omega

/-! ## What the decoder answers, said once (R84) -/

theorem decodeFamily0_cases (w : Word) :
    ((fieldNNN w).toNat = 0xe0 ∧ decodeFamily0 w = .ok (.cls)) ∨
    ((fieldNNN w).toNat = 0xee ∧ decodeFamily0 w = .ok (.ret)) ∨
    ((fieldNNN w).toNat ∉ [0xe0, 0xee] ∧ decodeFamily0 w = .error (.unsupportedOpcode w)) := by
  generalize hd : decodeFamily0 w = r
  unfold decodeFamily0 at hd
  split at hd <;> (subst hd; simp [*])
  and_intros <;> assumption

theorem decodeFamily8_cases (w : Word) :
    ((fieldN w).toNat = 0x0 ∧ decodeFamily8 w = .ok (.ldReg (fieldX w) (fieldY w))) ∨
    ((fieldN w).toNat = 0x1 ∧ decodeFamily8 w = .ok (.orReg (fieldX w) (fieldY w))) ∨
    ((fieldN w).toNat = 0x2 ∧ decodeFamily8 w = .ok (.andReg (fieldX w) (fieldY w))) ∨
    ((fieldN w).toNat = 0x3 ∧ decodeFamily8 w = .ok (.xorReg (fieldX w) (fieldY w))) ∨
    ((fieldN w).toNat = 0x4 ∧ decodeFamily8 w = .ok (.addReg (fieldX w) (fieldY w))) ∨
    ((fieldN w).toNat = 0x5 ∧ decodeFamily8 w = .ok (.sub (fieldX w) (fieldY w))) ∨
    ((fieldN w).toNat = 0x6 ∧ decodeFamily8 w = .ok (.shr (fieldX w) (fieldY w))) ∨
    ((fieldN w).toNat = 0x7 ∧ decodeFamily8 w = .ok (.subn (fieldX w) (fieldY w))) ∨
    ((fieldN w).toNat = 0xe ∧ decodeFamily8 w = .ok (.shl (fieldX w) (fieldY w))) ∨
    ((fieldN w).toNat ∉ [0x0, 0x1, 0x2, 0x3, 0x4, 0x5, 0x6, 0x7, 0xe] ∧ decodeFamily8 w = .error (.unsupportedOpcode w)) := by
  generalize hd : decodeFamily8 w = r
  unfold decodeFamily8 at hd
  split at hd <;> (subst hd; simp [*])
  and_intros <;> assumption

theorem decodeFamilyE_cases (w : Word) :
    ((fieldNN w).toNat = 0x9e ∧ decodeFamilyE w = .ok (.skp (fieldX w))) ∨
    ((fieldNN w).toNat = 0xa1 ∧ decodeFamilyE w = .ok (.sknp (fieldX w))) ∨
    ((fieldNN w).toNat ∉ [0x9e, 0xa1] ∧ decodeFamilyE w = .error (.unsupportedOpcode w)) := by
  generalize hd : decodeFamilyE w = r
  unfold decodeFamilyE at hd
  split at hd <;> (subst hd; simp [*])
  and_intros <;> assumption

theorem decodeFamilyF_cases (w : Word) :
    ((fieldNN w).toNat = 0x7 ∧ decodeFamilyF w = .ok (.ldFromDt (fieldX w))) ∨
    ((fieldNN w).toNat = 0xa ∧ decodeFamilyF w = .ok (.ldKey (fieldX w))) ∨
    ((fieldNN w).toNat = 0x15 ∧ decodeFamilyF w = .ok (.ldDt (fieldX w))) ∨
    ((fieldNN w).toNat = 0x18 ∧ decodeFamilyF w = .ok (.ldSt (fieldX w))) ∨
    ((fieldNN w).toNat = 0x1e ∧ decodeFamilyF w = .ok (.addI (fieldX w))) ∨
    ((fieldNN w).toNat = 0x29 ∧ decodeFamilyF w = .ok (.ldFont (fieldX w))) ∨
    ((fieldNN w).toNat = 0x33 ∧ decodeFamilyF w = .ok (.bcd (fieldX w))) ∨
    ((fieldNN w).toNat = 0x55 ∧ decodeFamilyF w = .ok (.store (fieldX w))) ∨
    ((fieldNN w).toNat = 0x65 ∧ decodeFamilyF w = .ok (.load (fieldX w))) ∨
    ((fieldNN w).toNat ∉ [0x7, 0xa, 0x15, 0x18, 0x1e, 0x29, 0x33, 0x55, 0x65] ∧ decodeFamilyF w = .error (.unsupportedOpcode w)) := by
  generalize hd : decodeFamilyF w = r
  unfold decodeFamilyF at hd
  split at hd <;> (subst hd; simp [*])
  and_intros <;> assumption

/-- The opcode selects the family or the operation. -/
theorem decodeWord_cases (w : Word) :
    ((fieldOp w).toNat = 0x0 ∧ decodeWord w = decodeFamily0 w) ∨
    ((fieldOp w).toNat = 0x1 ∧ decodeWord w = .ok (.jp (fieldNNN w))) ∨
    ((fieldOp w).toNat = 0x2 ∧ decodeWord w = .ok (.call (fieldNNN w))) ∨
    ((fieldOp w).toNat = 0x3 ∧ decodeWord w = .ok (.seImm (fieldX w) (fieldNN w))) ∨
    ((fieldOp w).toNat = 0x4 ∧ decodeWord w = .ok (.sneImm (fieldX w) (fieldNN w))) ∨
    ((fieldOp w).toNat = 0x5 ∧ decodeWord w = .ok (.seReg (fieldX w) (fieldY w))) ∨
    ((fieldOp w).toNat = 0x6 ∧ decodeWord w = .ok (.ldImm (fieldX w) (fieldNN w))) ∨
    ((fieldOp w).toNat = 0x7 ∧ decodeWord w = .ok (.addImm (fieldX w) (fieldNN w))) ∨
    ((fieldOp w).toNat = 0x8 ∧ decodeWord w = decodeFamily8 w) ∨
    ((fieldOp w).toNat = 0x9 ∧ decodeWord w = .ok (.sneReg (fieldX w) (fieldY w))) ∨
    ((fieldOp w).toNat = 0xa ∧ decodeWord w = .ok (.ldI (fieldNNN w))) ∨
    ((fieldOp w).toNat = 0xb ∧ decodeWord w = .ok (.jpOff (fieldNNN w) (fieldX w))) ∨
    ((fieldOp w).toNat = 0xc ∧ decodeWord w = .ok (.rnd (fieldX w) (fieldNN w))) ∨
    ((fieldOp w).toNat = 0xd ∧ decodeWord w = .ok (.drw (fieldX w) (fieldY w) (fieldN w))) ∨
    ((fieldOp w).toNat = 0xe ∧ decodeWord w = decodeFamilyE w) ∨
    ((fieldOp w).toNat = 0xf ∧ decodeWord w = decodeFamilyF w) := by
  have h : (fieldOp w).toNat < 16 := (fieldOp w).isLt
  generalize hd : decodeWord w = r
  unfold decodeWord at hd
  split at hd
  all_goals subst hd
  all_goals simp only [*]
  all_goals simp
  generalize (fieldOp w).toNat = op at *
  interval_cases op <;> simp_all

end Sys2Proof
end

