-- ==== Sys2Proof/Laws/Display.lean ====
section
/-! SUPPORT. What drawing a sprite does to each pixel, and when it collides (spec/44_display.md R202 to R204): the loop of
the rule against the one-line description of every pixel. -/

namespace Sys2Proof.Machine

/-- A pixel by its coordinates, false outside the display. -/
def pixel (fb : Framebuffer) (r c : Nat) : Bool :=
  if h : r < 32 ∧ c < 64 then fb[r][c] else false

/-- The coordinates are inside the 64 x 32 bounds. -/
def inside (r c : Nat) : Bool := decide (r < 32) && decide (c < 64)

theorem pixel_eq (fb : Framebuffer) (r : Fin 32) (c : Fin 64) : fb[r][c] = pixel fb r.val c.val := by
  simp [pixel]

theorem inside_fin (r : Fin 32) (c : Fin 64) : inside r.val c.val = true := by
  simp [inside]

theorem pixel_outside {fb : Framebuffer} {r c : Nat} (h : inside r c = false) : pixel fb r c = false := by
  unfold pixel
  split
  · simp_all [inside]
  · rfl

/-- Two framebuffers with the same pixels are the same. -/
theorem fb_ext {f g : Framebuffer} (h : ∀ r c : Nat, pixel f r c = pixel g r c) : f = g := by
  apply Vector.ext
  intro r hr
  apply Vector.ext
  intro c hc
  have := h r c
  simpa [pixel, hr, hc] using this

theorem plot_hit (p : Framebuffer × Bool) (row col : Nat) (bit : Bool) :
    (plot p row col bit).2 = (p.2 || bit && pixel p.1 row col) := by
  unfold plot pixel
  split <;> cases bit <;> simp

theorem plot_pixel (p : Framebuffer × Bool) (row col : Nat) (bit : Bool) (r c : Nat) :
    pixel (plot p row col bit).1 r c =
      (pixel p.1 r c ^^ (decide (r = row) && (decide (c = col) && bit) && inside r c)) := by
  unfold plot
  split
  · rename_i h
    cases bit
    · simp
    · by_cases hi : r < 32 ∧ c < 64
      · by_cases hr : r = row
        · subst hr
          by_cases hc : c = col
          · subst hc
            simp [pixel, h, inside]
          · simp [pixel, hi, hc, Ne.symm hc]
        · simp [pixel, hi, hr, Ne.symm hr]
      · have : inside r c = false := by
          simp only [inside, Bool.and_eq_false_iff, decide_eq_false_iff_not]
          omega
        simp [pixel, hi, this]
  · rename_i h
    by_cases hr : r = row
    · by_cases hc : c = col
      · subst hr hc
        have : inside r c = false := by
          simp only [inside, Bool.and_eq_false_iff, decide_eq_false_iff_not]
          omega
        simp [this]
      · simp [hc]
    · simp [hr]

/-- The first `k` bits of a sprite byte. -/
theorem plotBits (p : Framebuffer × Bool) (row col : Nat) (byte : Byte) (k : Nat) :
    (∀ r c, pixel ((List.range k).foldl (fun q b => plot q row (col + b) (byte.getLsbD (7 - b))) p).1 r c =
      (pixel p.1 r c ^^ (decide (r = row) &&
        (decide (col ≤ c) && decide (c < col + k) && byte.getLsbD (7 - (c - col))) && inside r c))) ∧
    (((List.range k).foldl (fun q b => plot q row (col + b) (byte.getLsbD (7 - b))) p).2 = true ↔
      p.2 = true ∨ ∃ b, b < k ∧ byte.getLsbD (7 - b) = true ∧ pixel p.1 row (col + b) = true) := by
  induction k with
  | zero =>
    refine ⟨fun r c => ?_, by simp⟩
    have : (decide (col ≤ c) && decide (c < col)) = false := by
      simp only [Bool.and_eq_false_iff, decide_eq_false_iff_not]
      omega
    simp [this]
  | succ k ih =>
    obtain ⟨ihp, ihh⟩ := ih
    rw [List.range_succ, List.foldl_append]
    refine ⟨fun r c => ?_, ?_⟩
    · simp only [List.foldl_cons, List.foldl_nil, plot_pixel, ihp]
      by_cases hc : c = col + k
      · subst hc
        simp
      · have : decide (c < col + (k + 1)) = decide (c < col + k) := by
          simp only [decide_eq_decide]
          omega
        simp [hc, this]
    · simp only [List.foldl_cons, List.foldl_nil, plot_hit, ihp, Bool.or_eq_true, Bool.and_eq_true, ihh]
      constructor
      · rintro ((h | ⟨b, hb, h⟩) | ⟨h1, h2⟩)
        · exact .inl h
        · exact .inr ⟨b, by omega, h⟩
        · exact .inr ⟨k, by omega, h1, by simpa using h2⟩
      · rintro (h | ⟨b, hb, h1, h2⟩)
        · exact .inl (.inl h)
        · by_cases hk : b = k
          · subst hk
            exact .inr ⟨h1, by simpa using h2⟩
          · exact .inl (.inr ⟨b, by omega, h1, h2⟩)

theorem plotByte_pixel (p : Framebuffer × Bool) (row col : Nat) (byte : Byte) (r c : Nat) :
    pixel (plotByte p row col byte).1 r c =
      (pixel p.1 r c ^^ (decide (r = row) && byteCovers byte col c && inside r c)) :=
  (plotBits p row col byte 8).1 r c

theorem plotByte_hit (p : Framebuffer × Bool) (row col : Nat) (byte : Byte) :
    (plotByte p row col byte).2 = true ↔
      p.2 = true ∨ ∃ c, byteCovers byte col c = true ∧ pixel p.1 row c = true := by
  refine ((plotBits p row col byte 8).2).trans ?_
  refine or_congr Iff.rfl ⟨?_, ?_⟩
  · rintro ⟨b, hb, h1, h2⟩
    exact ⟨col + b, by simp [byteCovers, hb, h1], h2⟩
  · rintro ⟨c, h1, h2⟩
    simp only [byteCovers, Bool.and_eq_true, decide_eq_true_eq] at h1
    exact ⟨c - col, by omega, h1.2, by rwa [Nat.add_sub_cancel' h1.1.1]⟩

theorem spriteCovers_nil (row col r c : Nat) : spriteCovers [] row col r c = false := by
  simp [spriteCovers, byteCovers]

theorem spriteCovers_cons (byte : Byte) (rest : List Byte) (row col r c : Nat) :
    spriteCovers (byte :: rest) row col r c =
      ((decide (r = row) && byteCovers byte col c) || spriteCovers rest (row + 1) col r c) := by
  unfold spriteCovers
  by_cases h : r = row
  · subst h
    simp
  · by_cases hle : row ≤ r
    · obtain ⟨d, rfl⟩ : ∃ d, r = row + 1 + d := ⟨r - row - 1, by omega⟩
      have h1 : row + 1 + d - row = d + 1 := by omega
      have h2 : row + 1 + d - (row + 1) = d := by omega
      simp [h1, h2, hle, h]
    · simp [h, hle, show ¬ row + 1 ≤ r by omega]

theorem spriteCovers_row {sprite : List Byte} {row col r c : Nat} (h : spriteCovers sprite row col r c = true) :
    row ≤ r := by
  simp only [spriteCovers, Bool.and_eq_true, decide_eq_true_eq] at h
  exact h.1

theorem plotRows_spec (sprite : List Byte) (p : Framebuffer × Bool) (row col : Nat) :
    (∀ r c, pixel (plotRows p row col sprite).1 r c =
      (pixel p.1 r c ^^ (spriteCovers sprite row col r c && inside r c))) ∧
    ((plotRows p row col sprite).2 = true ↔
      p.2 = true ∨ ∃ r c, spriteCovers sprite row col r c = true ∧ pixel p.1 r c = true) := by
  induction sprite generalizing p row with
  | nil => simp [plotRows, spriteCovers_nil]
  | cons byte rest ih =>
    obtain ⟨ihp, ihh⟩ := ih (plotByte p row col byte) (row + 1)
    refine ⟨fun r c => ?_, ?_⟩
    · simp only [plotRows, ihp, plotByte_pixel, spriteCovers_cons]
      by_cases h : r = row
      · subst h
        have : spriteCovers rest (r + 1) col r c = false := by
          cases hc : spriteCovers rest (r + 1) col r c
          · rfl
          · have := spriteCovers_row hc
            omega
        simp [this]
      · simp [h]
    · simp only [plotRows, ihh, plotByte_hit, plotByte_pixel]
      constructor
      · rintro ((h | ⟨c, h1, h2⟩) | ⟨r, c, h1, h2⟩)
        · exact .inl h
        · exact .inr ⟨row, c, by simp [spriteCovers_cons, h1], h2⟩
        · have := spriteCovers_row h1
          have hne : r ≠ row := by omega
          exact .inr ⟨r, c, by simp [spriteCovers_cons, h1], by simpa [hne] using h2⟩
      · rintro (h | ⟨r, c, h1, h2⟩)
        · exact .inl (.inl h)
        · rw [spriteCovers_cons, Bool.or_eq_true, Bool.and_eq_true, decide_eq_true_eq] at h1
          rcases h1 with ⟨rfl, h1⟩ | h1
          · exact .inl (.inr ⟨c, h1, h2⟩)
          · have := spriteCovers_row h1
            have hne : r ≠ row := by omega
            exact .inr ⟨r, c, h1, by simpa [hne] using h2⟩

/-- Every pixel inside the bounds that the sprite covers is toggled, every other one is as it was (R202). -/
theorem drawSprite_pixel (fb : Framebuffer) (row col : Nat) (sprite : List Byte) (r c : Nat) :
    pixel (drawSprite fb row col sprite).1 r c =
      (pixel fb r c ^^ (spriteCovers sprite row col r c && inside r c)) :=
  (plotRows_spec sprite (fb, false) row col).1 r c

/-- The collision: some covered pixel was set (R202, R204(e)). -/
theorem drawSprite_hit (fb : Framebuffer) (row col : Nat) (sprite : List Byte) :
    (drawSprite fb row col sprite).2 = true ↔
      ∃ r c, spriteCovers sprite row col r c = true ∧ pixel fb r c = true := by
  refine (plotRows_spec sprite (fb, false) row col).2.trans ?_
  simp

/-- Drawing twice at one place restores every pixel (R205). -/
theorem drawSprite_twice (fb : Framebuffer) (row col : Nat) (sprite : List Byte) :
    (drawSprite (drawSprite fb row col sprite).1 row col sprite).1 = fb := by
  apply fb_ext
  intro r c
  rw [drawSprite_pixel, drawSprite_pixel, Bool.xor_assoc, Bool.xor_self, Bool.xor_false]

end Sys2Proof.Machine
end

