-- ==== Sys2Proof/Laws/State.lean ====
section
/-! SUPPORT. Every field after every named update of the state, each true by unfolding, so that no later proof unfolds a
record update. -/

namespace Sys2Proof.Machine

variable (s : State)

/-! ## setV -/

@[simp] theorem State.setV_config (x : Index16) (b : Byte) : (s.setV x b).config = s.config := rfl
@[simp] theorem State.setV_v (x : Index16) (b : Byte) : (s.setV x b).v = s.v.set x b := rfl
@[simp] theorem State.setV_index (x : Index16) (b : Byte) : (s.setV x b).index = s.index := rfl
@[simp] theorem State.setV_pc (x : Index16) (b : Byte) : (s.setV x b).pc = s.pc := rfl
@[simp] theorem State.setV_stack (x : Index16) (b : Byte) : (s.setV x b).stack = s.stack := rfl
@[simp] theorem State.setV_dt (x : Index16) (b : Byte) : (s.setV x b).dt = s.dt := rfl
@[simp] theorem State.setV_st (x : Index16) (b : Byte) : (s.setV x b).st = s.st := rfl
@[simp] theorem State.setV_fb (x : Index16) (b : Byte) : (s.setV x b).fb = s.fb := rfl
@[simp] theorem State.setV_keys (x : Index16) (b : Byte) : (s.setV x b).keys = s.keys := rfl
@[simp] theorem State.setV_mem (x : Index16) (b : Byte) : (s.setV x b).mem = s.mem := rfl
@[simp] theorem State.setV_run (x : Index16) (b : Byte) : (s.setV x b).run = s.run := rfl
@[simp] theorem State.setV_fault (x : Index16) (b : Byte) : (s.setV x b).fault = s.fault := rfl
@[simp] theorem State.setV_phase (x : Index16) (b : Byte) : (s.setV x b).phase = s.phase := rfl
@[simp] theorem State.setV_stop (x : Index16) (b : Byte) : (s.setV x b).stop = s.stop := rfl
@[simp] theorem State.setV_output (x : Index16) (b : Byte) : (s.setV x b).output = s.output := rfl
@[simp] theorem State.setV_host (x : Index16) (b : Byte) : (s.setV x b).host = s.host := rfl
@[simp] theorem State.setV_draws (x : Index16) (b : Byte) : (s.setV x b).draws = s.draws := rfl

/-! ## setVs -/

@[simp] theorem State.setVs_config (bytes : List Byte) : (s.setVs bytes).config = s.config := rfl
@[simp] theorem State.setVs_v (bytes : List Byte) : (s.setVs bytes).v = loadRegs s.v 0 bytes := rfl
@[simp] theorem State.setVs_index (bytes : List Byte) : (s.setVs bytes).index = s.index := rfl
@[simp] theorem State.setVs_pc (bytes : List Byte) : (s.setVs bytes).pc = s.pc := rfl
@[simp] theorem State.setVs_stack (bytes : List Byte) : (s.setVs bytes).stack = s.stack := rfl
@[simp] theorem State.setVs_dt (bytes : List Byte) : (s.setVs bytes).dt = s.dt := rfl
@[simp] theorem State.setVs_st (bytes : List Byte) : (s.setVs bytes).st = s.st := rfl
@[simp] theorem State.setVs_fb (bytes : List Byte) : (s.setVs bytes).fb = s.fb := rfl
@[simp] theorem State.setVs_keys (bytes : List Byte) : (s.setVs bytes).keys = s.keys := rfl
@[simp] theorem State.setVs_mem (bytes : List Byte) : (s.setVs bytes).mem = s.mem := rfl
@[simp] theorem State.setVs_run (bytes : List Byte) : (s.setVs bytes).run = s.run := rfl
@[simp] theorem State.setVs_fault (bytes : List Byte) : (s.setVs bytes).fault = s.fault := rfl
@[simp] theorem State.setVs_phase (bytes : List Byte) : (s.setVs bytes).phase = s.phase := rfl
@[simp] theorem State.setVs_stop (bytes : List Byte) : (s.setVs bytes).stop = s.stop := rfl
@[simp] theorem State.setVs_output (bytes : List Byte) : (s.setVs bytes).output = s.output := rfl
@[simp] theorem State.setVs_host (bytes : List Byte) : (s.setVs bytes).host = s.host := rfl
@[simp] theorem State.setVs_draws (bytes : List Byte) : (s.setVs bytes).draws = s.draws := rfl

/-! ## setFlag -/

@[simp] theorem State.setFlag_config (f : Bool) : (s.setFlag f).config = s.config := rfl
@[simp] theorem State.setFlag_v (f : Bool) : (s.setFlag f).v = s.v.set flagReg (flagByte f) := rfl
@[simp] theorem State.setFlag_index (f : Bool) : (s.setFlag f).index = s.index := rfl
@[simp] theorem State.setFlag_pc (f : Bool) : (s.setFlag f).pc = s.pc := rfl
@[simp] theorem State.setFlag_stack (f : Bool) : (s.setFlag f).stack = s.stack := rfl
@[simp] theorem State.setFlag_dt (f : Bool) : (s.setFlag f).dt = s.dt := rfl
@[simp] theorem State.setFlag_st (f : Bool) : (s.setFlag f).st = s.st := rfl
@[simp] theorem State.setFlag_fb (f : Bool) : (s.setFlag f).fb = s.fb := rfl
@[simp] theorem State.setFlag_keys (f : Bool) : (s.setFlag f).keys = s.keys := rfl
@[simp] theorem State.setFlag_mem (f : Bool) : (s.setFlag f).mem = s.mem := rfl
@[simp] theorem State.setFlag_run (f : Bool) : (s.setFlag f).run = s.run := rfl
@[simp] theorem State.setFlag_fault (f : Bool) : (s.setFlag f).fault = s.fault := rfl
@[simp] theorem State.setFlag_phase (f : Bool) : (s.setFlag f).phase = s.phase := rfl
@[simp] theorem State.setFlag_stop (f : Bool) : (s.setFlag f).stop = s.stop := rfl
@[simp] theorem State.setFlag_output (f : Bool) : (s.setFlag f).output = s.output := rfl
@[simp] theorem State.setFlag_host (f : Bool) : (s.setFlag f).host = s.host := rfl
@[simp] theorem State.setFlag_draws (f : Bool) : (s.setFlag f).draws = s.draws := rfl

/-! ## setResultFlag -/

@[simp] theorem State.setResultFlag_config (x : Index16) (r : Byte) (f : Bool) : (s.setResultFlag x r f).config = s.config := rfl
@[simp] theorem State.setResultFlag_v (x : Index16) (r : Byte) (f : Bool) : (s.setResultFlag x r f).v = (s.v.set x r).set flagReg (flagByte f) := rfl
@[simp] theorem State.setResultFlag_index (x : Index16) (r : Byte) (f : Bool) : (s.setResultFlag x r f).index = s.index := rfl
@[simp] theorem State.setResultFlag_pc (x : Index16) (r : Byte) (f : Bool) : (s.setResultFlag x r f).pc = s.pc := rfl
@[simp] theorem State.setResultFlag_stack (x : Index16) (r : Byte) (f : Bool) : (s.setResultFlag x r f).stack = s.stack := rfl
@[simp] theorem State.setResultFlag_dt (x : Index16) (r : Byte) (f : Bool) : (s.setResultFlag x r f).dt = s.dt := rfl
@[simp] theorem State.setResultFlag_st (x : Index16) (r : Byte) (f : Bool) : (s.setResultFlag x r f).st = s.st := rfl
@[simp] theorem State.setResultFlag_fb (x : Index16) (r : Byte) (f : Bool) : (s.setResultFlag x r f).fb = s.fb := rfl
@[simp] theorem State.setResultFlag_keys (x : Index16) (r : Byte) (f : Bool) : (s.setResultFlag x r f).keys = s.keys := rfl
@[simp] theorem State.setResultFlag_mem (x : Index16) (r : Byte) (f : Bool) : (s.setResultFlag x r f).mem = s.mem := rfl
@[simp] theorem State.setResultFlag_run (x : Index16) (r : Byte) (f : Bool) : (s.setResultFlag x r f).run = s.run := rfl
@[simp] theorem State.setResultFlag_fault (x : Index16) (r : Byte) (f : Bool) : (s.setResultFlag x r f).fault = s.fault := rfl
@[simp] theorem State.setResultFlag_phase (x : Index16) (r : Byte) (f : Bool) : (s.setResultFlag x r f).phase = s.phase := rfl
@[simp] theorem State.setResultFlag_stop (x : Index16) (r : Byte) (f : Bool) : (s.setResultFlag x r f).stop = s.stop := rfl
@[simp] theorem State.setResultFlag_output (x : Index16) (r : Byte) (f : Bool) : (s.setResultFlag x r f).output = s.output := rfl
@[simp] theorem State.setResultFlag_host (x : Index16) (r : Byte) (f : Bool) : (s.setResultFlag x r f).host = s.host := rfl
@[simp] theorem State.setResultFlag_draws (x : Index16) (r : Byte) (f : Bool) : (s.setResultFlag x r f).draws = s.draws := rfl

/-! ## setIndex -/

@[simp] theorem State.setIndex_config (a : Word) : (s.setIndex a).config = s.config := rfl
@[simp] theorem State.setIndex_v (a : Word) : (s.setIndex a).v = s.v := rfl
@[simp] theorem State.setIndex_index (a : Word) : (s.setIndex a).index = a := rfl
@[simp] theorem State.setIndex_pc (a : Word) : (s.setIndex a).pc = s.pc := rfl
@[simp] theorem State.setIndex_stack (a : Word) : (s.setIndex a).stack = s.stack := rfl
@[simp] theorem State.setIndex_dt (a : Word) : (s.setIndex a).dt = s.dt := rfl
@[simp] theorem State.setIndex_st (a : Word) : (s.setIndex a).st = s.st := rfl
@[simp] theorem State.setIndex_fb (a : Word) : (s.setIndex a).fb = s.fb := rfl
@[simp] theorem State.setIndex_keys (a : Word) : (s.setIndex a).keys = s.keys := rfl
@[simp] theorem State.setIndex_mem (a : Word) : (s.setIndex a).mem = s.mem := rfl
@[simp] theorem State.setIndex_run (a : Word) : (s.setIndex a).run = s.run := rfl
@[simp] theorem State.setIndex_fault (a : Word) : (s.setIndex a).fault = s.fault := rfl
@[simp] theorem State.setIndex_phase (a : Word) : (s.setIndex a).phase = s.phase := rfl
@[simp] theorem State.setIndex_stop (a : Word) : (s.setIndex a).stop = s.stop := rfl
@[simp] theorem State.setIndex_output (a : Word) : (s.setIndex a).output = s.output := rfl
@[simp] theorem State.setIndex_host (a : Word) : (s.setIndex a).host = s.host := rfl
@[simp] theorem State.setIndex_draws (a : Word) : (s.setIndex a).draws = s.draws := rfl

/-! ## setPc -/

@[simp] theorem State.setPc_config (t : Word) : (s.setPc t).config = s.config := rfl
@[simp] theorem State.setPc_v (t : Word) : (s.setPc t).v = s.v := rfl
@[simp] theorem State.setPc_index (t : Word) : (s.setPc t).index = s.index := rfl
@[simp] theorem State.setPc_pc (t : Word) : (s.setPc t).pc = t := rfl
@[simp] theorem State.setPc_stack (t : Word) : (s.setPc t).stack = s.stack := rfl
@[simp] theorem State.setPc_dt (t : Word) : (s.setPc t).dt = s.dt := rfl
@[simp] theorem State.setPc_st (t : Word) : (s.setPc t).st = s.st := rfl
@[simp] theorem State.setPc_fb (t : Word) : (s.setPc t).fb = s.fb := rfl
@[simp] theorem State.setPc_keys (t : Word) : (s.setPc t).keys = s.keys := rfl
@[simp] theorem State.setPc_mem (t : Word) : (s.setPc t).mem = s.mem := rfl
@[simp] theorem State.setPc_run (t : Word) : (s.setPc t).run = s.run := rfl
@[simp] theorem State.setPc_fault (t : Word) : (s.setPc t).fault = s.fault := rfl
@[simp] theorem State.setPc_phase (t : Word) : (s.setPc t).phase = s.phase := rfl
@[simp] theorem State.setPc_stop (t : Word) : (s.setPc t).stop = s.stop := rfl
@[simp] theorem State.setPc_output (t : Word) : (s.setPc t).output = s.output := rfl
@[simp] theorem State.setPc_host (t : Word) : (s.setPc t).host = s.host := rfl
@[simp] theorem State.setPc_draws (t : Word) : (s.setPc t).draws = s.draws := rfl

/-! ## advance -/

@[simp] theorem State.advance_config : s.advance.config = s.config := rfl
@[simp] theorem State.advance_v : s.advance.v = s.v := rfl
@[simp] theorem State.advance_index : s.advance.index = s.index := rfl
@[simp] theorem State.advance_pc : s.advance.pc = s.pc + 2 := rfl
@[simp] theorem State.advance_stack : s.advance.stack = s.stack := rfl
@[simp] theorem State.advance_dt : s.advance.dt = s.dt := rfl
@[simp] theorem State.advance_st : s.advance.st = s.st := rfl
@[simp] theorem State.advance_fb : s.advance.fb = s.fb := rfl
@[simp] theorem State.advance_keys : s.advance.keys = s.keys := rfl
@[simp] theorem State.advance_mem : s.advance.mem = s.mem := rfl
@[simp] theorem State.advance_run : s.advance.run = s.run := rfl
@[simp] theorem State.advance_fault : s.advance.fault = s.fault := rfl
@[simp] theorem State.advance_phase : s.advance.phase = s.phase := rfl
@[simp] theorem State.advance_stop : s.advance.stop = s.stop := rfl
@[simp] theorem State.advance_output : s.advance.output = s.output := rfl
@[simp] theorem State.advance_host : s.advance.host = s.host := rfl
@[simp] theorem State.advance_draws : s.advance.draws = s.draws := rfl

/-! ## rewind -/

@[simp] theorem State.rewind_config : s.rewind.config = s.config := rfl
@[simp] theorem State.rewind_v : s.rewind.v = s.v := rfl
@[simp] theorem State.rewind_index : s.rewind.index = s.index := rfl
@[simp] theorem State.rewind_pc : s.rewind.pc = s.pc - 2 := rfl
@[simp] theorem State.rewind_stack : s.rewind.stack = s.stack := rfl
@[simp] theorem State.rewind_dt : s.rewind.dt = s.dt := rfl
@[simp] theorem State.rewind_st : s.rewind.st = s.st := rfl
@[simp] theorem State.rewind_fb : s.rewind.fb = s.fb := rfl
@[simp] theorem State.rewind_keys : s.rewind.keys = s.keys := rfl
@[simp] theorem State.rewind_mem : s.rewind.mem = s.mem := rfl
@[simp] theorem State.rewind_run : s.rewind.run = s.run := rfl
@[simp] theorem State.rewind_fault : s.rewind.fault = s.fault := rfl
@[simp] theorem State.rewind_phase : s.rewind.phase = s.phase := rfl
@[simp] theorem State.rewind_stop : s.rewind.stop = s.stop := rfl
@[simp] theorem State.rewind_output : s.rewind.output = s.output := rfl
@[simp] theorem State.rewind_host : s.rewind.host = s.host := rfl
@[simp] theorem State.rewind_draws : s.rewind.draws = s.draws := rfl

/-! ## push -/

@[simp] theorem State.push_config (a : Word) : (s.push a).config = s.config := rfl
@[simp] theorem State.push_v (a : Word) : (s.push a).v = s.v := rfl
@[simp] theorem State.push_index (a : Word) : (s.push a).index = s.index := rfl
@[simp] theorem State.push_pc (a : Word) : (s.push a).pc = s.pc := rfl
@[simp] theorem State.push_stack (a : Word) : (s.push a).stack = s.stack ++ [a] := rfl
@[simp] theorem State.push_dt (a : Word) : (s.push a).dt = s.dt := rfl
@[simp] theorem State.push_st (a : Word) : (s.push a).st = s.st := rfl
@[simp] theorem State.push_fb (a : Word) : (s.push a).fb = s.fb := rfl
@[simp] theorem State.push_keys (a : Word) : (s.push a).keys = s.keys := rfl
@[simp] theorem State.push_mem (a : Word) : (s.push a).mem = s.mem := rfl
@[simp] theorem State.push_run (a : Word) : (s.push a).run = s.run := rfl
@[simp] theorem State.push_fault (a : Word) : (s.push a).fault = s.fault := rfl
@[simp] theorem State.push_phase (a : Word) : (s.push a).phase = s.phase := rfl
@[simp] theorem State.push_stop (a : Word) : (s.push a).stop = s.stop := rfl
@[simp] theorem State.push_output (a : Word) : (s.push a).output = s.output := rfl
@[simp] theorem State.push_host (a : Word) : (s.push a).host = s.host := rfl
@[simp] theorem State.push_draws (a : Word) : (s.push a).draws = s.draws := rfl

/-! ## dropTop -/

@[simp] theorem State.dropTop_config : s.dropTop.config = s.config := rfl
@[simp] theorem State.dropTop_v : s.dropTop.v = s.v := rfl
@[simp] theorem State.dropTop_index : s.dropTop.index = s.index := rfl
@[simp] theorem State.dropTop_pc : s.dropTop.pc = s.pc := rfl
@[simp] theorem State.dropTop_stack : s.dropTop.stack = s.stack.dropLast := rfl
@[simp] theorem State.dropTop_dt : s.dropTop.dt = s.dt := rfl
@[simp] theorem State.dropTop_st : s.dropTop.st = s.st := rfl
@[simp] theorem State.dropTop_fb : s.dropTop.fb = s.fb := rfl
@[simp] theorem State.dropTop_keys : s.dropTop.keys = s.keys := rfl
@[simp] theorem State.dropTop_mem : s.dropTop.mem = s.mem := rfl
@[simp] theorem State.dropTop_run : s.dropTop.run = s.run := rfl
@[simp] theorem State.dropTop_fault : s.dropTop.fault = s.fault := rfl
@[simp] theorem State.dropTop_phase : s.dropTop.phase = s.phase := rfl
@[simp] theorem State.dropTop_stop : s.dropTop.stop = s.stop := rfl
@[simp] theorem State.dropTop_output : s.dropTop.output = s.output := rfl
@[simp] theorem State.dropTop_host : s.dropTop.host = s.host := rfl
@[simp] theorem State.dropTop_draws : s.dropTop.draws = s.draws := rfl

/-! ## setDt -/

@[simp] theorem State.setDt_config (b : Byte) : (s.setDt b).config = s.config := rfl
@[simp] theorem State.setDt_v (b : Byte) : (s.setDt b).v = s.v := rfl
@[simp] theorem State.setDt_index (b : Byte) : (s.setDt b).index = s.index := rfl
@[simp] theorem State.setDt_pc (b : Byte) : (s.setDt b).pc = s.pc := rfl
@[simp] theorem State.setDt_stack (b : Byte) : (s.setDt b).stack = s.stack := rfl
@[simp] theorem State.setDt_dt (b : Byte) : (s.setDt b).dt = b := rfl
@[simp] theorem State.setDt_st (b : Byte) : (s.setDt b).st = s.st := rfl
@[simp] theorem State.setDt_fb (b : Byte) : (s.setDt b).fb = s.fb := rfl
@[simp] theorem State.setDt_keys (b : Byte) : (s.setDt b).keys = s.keys := rfl
@[simp] theorem State.setDt_mem (b : Byte) : (s.setDt b).mem = s.mem := rfl
@[simp] theorem State.setDt_run (b : Byte) : (s.setDt b).run = s.run := rfl
@[simp] theorem State.setDt_fault (b : Byte) : (s.setDt b).fault = s.fault := rfl
@[simp] theorem State.setDt_phase (b : Byte) : (s.setDt b).phase = s.phase := rfl
@[simp] theorem State.setDt_stop (b : Byte) : (s.setDt b).stop = s.stop := rfl
@[simp] theorem State.setDt_output (b : Byte) : (s.setDt b).output = s.output := rfl
@[simp] theorem State.setDt_host (b : Byte) : (s.setDt b).host = s.host := rfl
@[simp] theorem State.setDt_draws (b : Byte) : (s.setDt b).draws = s.draws := rfl

/-! ## setSt -/

@[simp] theorem State.setSt_config (b : Byte) : (s.setSt b).config = s.config := rfl
@[simp] theorem State.setSt_v (b : Byte) : (s.setSt b).v = s.v := rfl
@[simp] theorem State.setSt_index (b : Byte) : (s.setSt b).index = s.index := rfl
@[simp] theorem State.setSt_pc (b : Byte) : (s.setSt b).pc = s.pc := rfl
@[simp] theorem State.setSt_stack (b : Byte) : (s.setSt b).stack = s.stack := rfl
@[simp] theorem State.setSt_dt (b : Byte) : (s.setSt b).dt = s.dt := rfl
@[simp] theorem State.setSt_st (b : Byte) : (s.setSt b).st = b := rfl
@[simp] theorem State.setSt_fb (b : Byte) : (s.setSt b).fb = s.fb := rfl
@[simp] theorem State.setSt_keys (b : Byte) : (s.setSt b).keys = s.keys := rfl
@[simp] theorem State.setSt_mem (b : Byte) : (s.setSt b).mem = s.mem := rfl
@[simp] theorem State.setSt_run (b : Byte) : (s.setSt b).run = s.run := rfl
@[simp] theorem State.setSt_fault (b : Byte) : (s.setSt b).fault = s.fault := rfl
@[simp] theorem State.setSt_phase (b : Byte) : (s.setSt b).phase = s.phase := rfl
@[simp] theorem State.setSt_stop (b : Byte) : (s.setSt b).stop = s.stop := rfl
@[simp] theorem State.setSt_output (b : Byte) : (s.setSt b).output = s.output := rfl
@[simp] theorem State.setSt_host (b : Byte) : (s.setSt b).host = s.host := rfl
@[simp] theorem State.setSt_draws (b : Byte) : (s.setSt b).draws = s.draws := rfl

/-! ## setFb -/

@[simp] theorem State.setFb_config (fb : Framebuffer) : (s.setFb fb).config = s.config := rfl
@[simp] theorem State.setFb_v (fb : Framebuffer) : (s.setFb fb).v = s.v := rfl
@[simp] theorem State.setFb_index (fb : Framebuffer) : (s.setFb fb).index = s.index := rfl
@[simp] theorem State.setFb_pc (fb : Framebuffer) : (s.setFb fb).pc = s.pc := rfl
@[simp] theorem State.setFb_stack (fb : Framebuffer) : (s.setFb fb).stack = s.stack := rfl
@[simp] theorem State.setFb_dt (fb : Framebuffer) : (s.setFb fb).dt = s.dt := rfl
@[simp] theorem State.setFb_st (fb : Framebuffer) : (s.setFb fb).st = s.st := rfl
@[simp] theorem State.setFb_fb (fb : Framebuffer) : (s.setFb fb).fb = fb := rfl
@[simp] theorem State.setFb_keys (fb : Framebuffer) : (s.setFb fb).keys = s.keys := rfl
@[simp] theorem State.setFb_mem (fb : Framebuffer) : (s.setFb fb).mem = s.mem := rfl
@[simp] theorem State.setFb_run (fb : Framebuffer) : (s.setFb fb).run = s.run := rfl
@[simp] theorem State.setFb_fault (fb : Framebuffer) : (s.setFb fb).fault = s.fault := rfl
@[simp] theorem State.setFb_phase (fb : Framebuffer) : (s.setFb fb).phase = s.phase := rfl
@[simp] theorem State.setFb_stop (fb : Framebuffer) : (s.setFb fb).stop = s.stop := rfl
@[simp] theorem State.setFb_output (fb : Framebuffer) : (s.setFb fb).output = s.output := rfl
@[simp] theorem State.setFb_host (fb : Framebuffer) : (s.setFb fb).host = s.host := rfl
@[simp] theorem State.setFb_draws (fb : Framebuffer) : (s.setFb fb).draws = s.draws := rfl

/-! ## setKey -/

@[simp] theorem State.setKey_config (k : Index16) (b : Bool) : (s.setKey k b).config = s.config := rfl
@[simp] theorem State.setKey_v (k : Index16) (b : Bool) : (s.setKey k b).v = s.v := rfl
@[simp] theorem State.setKey_index (k : Index16) (b : Bool) : (s.setKey k b).index = s.index := rfl
@[simp] theorem State.setKey_pc (k : Index16) (b : Bool) : (s.setKey k b).pc = s.pc := rfl
@[simp] theorem State.setKey_stack (k : Index16) (b : Bool) : (s.setKey k b).stack = s.stack := rfl
@[simp] theorem State.setKey_dt (k : Index16) (b : Bool) : (s.setKey k b).dt = s.dt := rfl
@[simp] theorem State.setKey_st (k : Index16) (b : Bool) : (s.setKey k b).st = s.st := rfl
@[simp] theorem State.setKey_fb (k : Index16) (b : Bool) : (s.setKey k b).fb = s.fb := rfl
@[simp] theorem State.setKey_keys (k : Index16) (b : Bool) : (s.setKey k b).keys = s.keys.set k b := rfl
@[simp] theorem State.setKey_mem (k : Index16) (b : Bool) : (s.setKey k b).mem = s.mem := rfl
@[simp] theorem State.setKey_run (k : Index16) (b : Bool) : (s.setKey k b).run = s.run := rfl
@[simp] theorem State.setKey_fault (k : Index16) (b : Bool) : (s.setKey k b).fault = s.fault := rfl
@[simp] theorem State.setKey_phase (k : Index16) (b : Bool) : (s.setKey k b).phase = s.phase := rfl
@[simp] theorem State.setKey_stop (k : Index16) (b : Bool) : (s.setKey k b).stop = s.stop := rfl
@[simp] theorem State.setKey_output (k : Index16) (b : Bool) : (s.setKey k b).output = s.output := rfl
@[simp] theorem State.setKey_host (k : Index16) (b : Bool) : (s.setKey k b).host = s.host := rfl
@[simp] theorem State.setKey_draws (k : Index16) (b : Bool) : (s.setKey k b).draws = s.draws := rfl

/-! ## writeBytes -/

@[simp] theorem State.writeBytes_config (a : Nat) (bs : List Byte) : (s.writeBytes a bs).config = s.config := rfl
@[simp] theorem State.writeBytes_v (a : Nat) (bs : List Byte) : (s.writeBytes a bs).v = s.v := rfl
@[simp] theorem State.writeBytes_index (a : Nat) (bs : List Byte) : (s.writeBytes a bs).index = s.index := rfl
@[simp] theorem State.writeBytes_pc (a : Nat) (bs : List Byte) : (s.writeBytes a bs).pc = s.pc := rfl
@[simp] theorem State.writeBytes_stack (a : Nat) (bs : List Byte) : (s.writeBytes a bs).stack = s.stack := rfl
@[simp] theorem State.writeBytes_dt (a : Nat) (bs : List Byte) : (s.writeBytes a bs).dt = s.dt := rfl
@[simp] theorem State.writeBytes_st (a : Nat) (bs : List Byte) : (s.writeBytes a bs).st = s.st := rfl
@[simp] theorem State.writeBytes_fb (a : Nat) (bs : List Byte) : (s.writeBytes a bs).fb = s.fb := rfl
@[simp] theorem State.writeBytes_keys (a : Nat) (bs : List Byte) : (s.writeBytes a bs).keys = s.keys := rfl
@[simp] theorem State.writeBytes_mem (a : Nat) (bs : List Byte) : (s.writeBytes a bs).mem = Memory.writeBytes (blankByte s.config) s.mem a bs := rfl
@[simp] theorem State.writeBytes_run (a : Nat) (bs : List Byte) : (s.writeBytes a bs).run = s.run := rfl
@[simp] theorem State.writeBytes_fault (a : Nat) (bs : List Byte) : (s.writeBytes a bs).fault = s.fault := rfl
@[simp] theorem State.writeBytes_phase (a : Nat) (bs : List Byte) : (s.writeBytes a bs).phase = s.phase := rfl
@[simp] theorem State.writeBytes_stop (a : Nat) (bs : List Byte) : (s.writeBytes a bs).stop = s.stop := rfl
@[simp] theorem State.writeBytes_output (a : Nat) (bs : List Byte) : (s.writeBytes a bs).output = s.output := rfl
@[simp] theorem State.writeBytes_host (a : Nat) (bs : List Byte) : (s.writeBytes a bs).host = s.host := rfl
@[simp] theorem State.writeBytes_draws (a : Nat) (bs : List Byte) : (s.writeBytes a bs).draws = s.draws := rfl

/-! ## countDraw -/

@[simp] theorem State.countDraw_config : s.countDraw.config = s.config := rfl
@[simp] theorem State.countDraw_v : s.countDraw.v = s.v := rfl
@[simp] theorem State.countDraw_index : s.countDraw.index = s.index := rfl
@[simp] theorem State.countDraw_pc : s.countDraw.pc = s.pc := rfl
@[simp] theorem State.countDraw_stack : s.countDraw.stack = s.stack := rfl
@[simp] theorem State.countDraw_dt : s.countDraw.dt = s.dt := rfl
@[simp] theorem State.countDraw_st : s.countDraw.st = s.st := rfl
@[simp] theorem State.countDraw_fb : s.countDraw.fb = s.fb := rfl
@[simp] theorem State.countDraw_keys : s.countDraw.keys = s.keys := rfl
@[simp] theorem State.countDraw_mem : s.countDraw.mem = s.mem := rfl
@[simp] theorem State.countDraw_run : s.countDraw.run = s.run := rfl
@[simp] theorem State.countDraw_fault : s.countDraw.fault = s.fault := rfl
@[simp] theorem State.countDraw_phase : s.countDraw.phase = s.phase := rfl
@[simp] theorem State.countDraw_stop : s.countDraw.stop = s.stop := rfl
@[simp] theorem State.countDraw_output : s.countDraw.output = s.output := rfl
@[simp] theorem State.countDraw_host : s.countDraw.host = s.host := rfl
@[simp] theorem State.countDraw_draws : s.countDraw.draws = s.draws + 1 := rfl

/-! ## tick -/

@[simp] theorem State.tick_config : s.tick.config = s.config := rfl
@[simp] theorem State.tick_v : s.tick.v = s.v := rfl
@[simp] theorem State.tick_index : s.tick.index = s.index := rfl
@[simp] theorem State.tick_pc : s.tick.pc = s.pc := rfl
@[simp] theorem State.tick_stack : s.tick.stack = s.stack := rfl
@[simp] theorem State.tick_dt : s.tick.dt = countDown s.dt := rfl
@[simp] theorem State.tick_st : s.tick.st = countDown s.st := rfl
@[simp] theorem State.tick_fb : s.tick.fb = s.fb := rfl
@[simp] theorem State.tick_keys : s.tick.keys = s.keys := rfl
@[simp] theorem State.tick_mem : s.tick.mem = s.mem := rfl
@[simp] theorem State.tick_run : s.tick.run = s.run := rfl
@[simp] theorem State.tick_fault : s.tick.fault = s.fault := rfl
@[simp] theorem State.tick_phase : s.tick.phase = s.phase := rfl
@[simp] theorem State.tick_stop : s.tick.stop = s.stop := rfl
@[simp] theorem State.tick_output : s.tick.output = s.output := rfl
@[simp] theorem State.tick_host : s.tick.host = s.host := rfl
@[simp] theorem State.tick_draws : s.tick.draws = s.draws := rfl

end Sys2Proof.Machine
end

