-- ==== Sys2Proof/Laws/Memory.lean ====
section
/-! SUPPORT. Memory: a read after a write, the span primitives of spec/20_memory.md R52 to R54, and that every operation keeps
the canonical form. -/

namespace Sys2Proof.Machine

variable {blank : Nat → Byte}

/-! ## One byte -/

theorem Memory.read_of_lt {low : Nat} {m : Memory} (h : Memory.wfFrom blank low m) {a : Nat} (ha : a < low) :
    Memory.read blank m a = blank a := by
  induction m generalizing low with
  | nil => rfl
  | cons kb rest ih =>
    obtain ⟨k, b⟩ := kb
    simp only [Memory.wfFrom, Bool.and_eq_true, decide_eq_true_eq] at h
    have hk : k ≠ a := by omega
    simp only [Memory.read, hk, if_false]
    exact ih h.2 (by omega)

theorem Memory.read_write_same {low : Nat} {m : Memory} (h : Memory.wfFrom blank low m) (a : Nat) (b : Byte) :
    Memory.read blank (Memory.write blank m a b) a = b := by
  induction m generalizing low with
  | nil => by_cases hb : b = blank a <;> simp [Memory.write, Memory.read, hb]
  | cons kc rest ih =>
    obtain ⟨k, c⟩ := kc
    simp only [Memory.wfFrom, Bool.and_eq_true, decide_eq_true_eq] at h
    unfold Memory.write
    split
    · have hk : k ≠ a := by omega
      by_cases hb : b = blank a
      · have := Memory.read_of_lt h.2 (a := a) (by omega)
        simp [Memory.read, hb, hk, this]
      · simp [Memory.read, hb]
    · split
      · rename_i hlt heq
        by_cases hb : b = blank a
        · have := Memory.read_of_lt h.2 (a := a) (by omega)
          simp [hb, this]
        · simp [Memory.read, hb]
      · have hk : k ≠ a := by omega
        simp [Memory.read, hk, ih h.2]

theorem Memory.read_write_other {m : Memory} {a b : Nat} (hab : b ≠ a) (c : Byte) :
    Memory.read blank (Memory.write blank m a c) b = Memory.read blank m b := by
  induction m with
  | nil => by_cases hb : c = blank a <;> simp [Memory.write, Memory.read, hb, hab.symm]
  | cons kc rest ih =>
    obtain ⟨k, d⟩ := kc
    unfold Memory.write
    split
    · split <;> simp [Memory.read, hab.symm]
    · split
      · rename_i heq
        subst heq
        split <;> simp [Memory.read, hab.symm]
      · simp [Memory.read, ih]

theorem Memory.wfFrom_mono {low low' : Nat} {m : Memory} (hl : low' ≤ low) (h : Memory.wfFrom blank low m) :
    Memory.wfFrom blank low' m := by
  cases m with
  | nil => rfl
  | cons kb rest =>
    obtain ⟨k, b⟩ := kb
    simp only [Memory.wfFrom, Bool.and_eq_true, decide_eq_true_eq] at h ⊢
    exact ⟨⟨⟨by omega, h.1.1.2⟩, h.1.2⟩, h.2⟩

theorem Memory.wfFrom_write {low : Nat} {m : Memory} (h : Memory.wfFrom blank low m) {a : Nat} (hl : low ≤ a)
    (ha : a < memSize) (b : Byte) : Memory.wfFrom blank low (Memory.write blank m a b) := by
  induction m generalizing low with
  | nil => by_cases hb : b = blank a <;> simp [Memory.write, Memory.wfFrom, hb, hl, ha]
  | cons kc rest ih =>
    obtain ⟨k, c⟩ := kc
    have h' := h
    simp only [Memory.wfFrom, Bool.and_eq_true, decide_eq_true_eq, bne_iff_ne] at h
    unfold Memory.write
    split
    · split
      · exact h'
      · rename_i hlt hb
        simp only [Memory.wfFrom, Bool.and_eq_true, decide_eq_true_eq, bne_iff_ne]
        exact ⟨⟨⟨hl, ha⟩, hb⟩, ⟨⟨by omega, h.1.1.2⟩, h.1.2⟩, h.2⟩
    · split
      · rename_i heq
        split
        · exact Memory.wfFrom_mono (by omega) h.2
        · rename_i hb
          simp only [Memory.wfFrom, Bool.and_eq_true, decide_eq_true_eq, bne_iff_ne]
          exact ⟨⟨⟨hl, ha⟩, hb⟩, heq ▸ h.2⟩
      · simp only [Memory.wfFrom, Bool.and_eq_true, decide_eq_true_eq, bne_iff_ne]
        exact ⟨h.1, ih h.2 (by omega)⟩

/-! ## Several bytes -/

theorem Memory.wfFrom_writeBytes {m : Memory} (h : Memory.wfFrom blank 0 m) (a : Nat) (bs : List Byte)
    (hb : a + bs.length ≤ memSize) : Memory.wfFrom blank 0 (Memory.writeBytes blank m a bs) := by
  induction bs generalizing m a with
  | nil => exact h
  | cons b rest ih =>
    simp only [List.length_cons] at hb
    exact ih (Memory.wfFrom_write h (Nat.zero_le _) (by omega) b) (a + 1) (by omega)

theorem Memory.read_writeBytes_outside {m : Memory} (a : Nat) (bs : List Byte) {c : Nat}
    (hc : c < a ∨ a + bs.length ≤ c) :
    Memory.read blank (Memory.writeBytes blank m a bs) c = Memory.read blank m c := by
  induction bs generalizing m a with
  | nil => rfl
  | cons b rest ih =>
    simp only [List.length_cons] at hc
    simp only [Memory.writeBytes]
    rw [ih (a + 1) (by omega), Memory.read_write_other (by omega)]

theorem Memory.read_writeBytes_inside {m : Memory} (h : Memory.wfFrom blank 0 m) (a : Nat) (bs : List Byte)
    (hb : a + bs.length ≤ memSize) {j : Nat} (hj : j < bs.length) :
    Memory.read blank (Memory.writeBytes blank m a bs) (a + j) = bs[j] := by
  induction bs generalizing m a j with
  | nil => simp at hj
  | cons b rest ih =>
    simp only [List.length_cons] at hb hj
    simp only [Memory.writeBytes]
    have hw := Memory.wfFrom_write h (Nat.zero_le a) (by omega) b
    cases j with
    | zero =>
      rw [Memory.read_writeBytes_outside (a + 1) rest (by omega)]
      simpa using Memory.read_write_same h a b
    | succ j =>
      have := ih hw (a + 1) (by omega) (j := j) (by omega)
      simpa [Nat.add_assoc, Nat.add_comm 1 j] using this

/-! ## The state's memory -/

/-- The primitives keep the canonical form (`Memory.wf` at the state's own configuration). -/
theorem State.writeBytes_wf {s : State} (h : Memory.wf s.config s.mem) (a : Nat) (bs : List Byte)
    (hb : a + bs.length ≤ memSize) : Memory.wf s.config (s.writeBytes a bs).mem :=
  Memory.wfFrom_writeBytes h a bs hb

theorem State.byteAt_writeBytes_outside (s : State) (a : Nat) (bs : List Byte) {c : Nat}
    (hc : c < a ∨ a + bs.length ≤ c) : (s.writeBytes a bs).byteAt c = s.byteAt c :=
  Memory.read_writeBytes_outside a bs hc

theorem State.byteAt_writeBytes_inside {s : State} (h : Memory.wf s.config s.mem) (a : Nat) (bs : List Byte)
    (hb : a + bs.length ≤ memSize) {j : Nat} (hj : j < bs.length) :
    (s.writeBytes a bs).byteAt (a + j) = bs[j] :=
  Memory.read_writeBytes_inside h a bs hb hj

/-- Two states with the same configuration and the same list read alike. -/
theorem State.byteAt_congr {s t : State} (hc : t.config = s.config) (hm : t.mem = s.mem) (a : Nat) :
    t.byteAt a = s.byteAt a := by
  simp [State.byteAt, hc, hm]

@[simp] theorem State.bytesAt_length (s : State) (a n : Nat) : (s.bytesAt a n).length = n := by
  induction n generalizing a with
  | zero => rfl
  | succ n ih => simp [State.bytesAt, ih]

theorem State.bytesAt_getElem? (s : State) (a n : Nat) {j : Nat} (hj : j < n) :
    (s.bytesAt a n)[j]? = some (s.byteAt (a + j)) := by
  induction n generalizing a j with
  | zero => omega
  | succ n ih =>
    cases j with
    | zero => simp [State.bytesAt]
    | succ j =>
      have := ih (a + 1) (j := j) (by omega)
      simpa [State.bytesAt, Nat.add_assoc, Nat.add_comm 1 j] using this

theorem State.bytesAt_getD (s : State) (a n : Nat) {j : Nat} (hj : j < n) (d : Byte) :
    (s.bytesAt a n).getD j d = s.byteAt (a + j) := by
  simp [List.getD_eq_getElem?_getD, State.bytesAt_getElem? s a n hj]

theorem spanInBounds_iff (a n : Nat) : spanInBounds a n = true ↔ a + n ≤ 4096 :=
  decide_eq_true_iff

/-- `MemRead` (R54): the bytes of the span, or the error; nothing else. -/
theorem State.memRead_ok {s : State} {a n : Nat} (h : a + n ≤ 4096) : s.memRead a n = .ok (s.bytesAt a n) := by
  simp [State.memRead, spanInBounds, memSize, h]

theorem State.memRead_error {s : State} {a n : Nat} (h : 4096 < a + n) : s.memRead a n = .error (boundsError a) := by
  simp [State.memRead, spanInBounds, memSize, Nat.not_le.mpr h]

/-- `MemWrite` (R53): the bytes written, or the error and nothing written. -/
theorem State.memWrite_ok {s : State} {a : Nat} {bs : List Byte} (h : a + bs.length ≤ 4096) :
    s.memWrite a bs = .ok (s.writeBytes a bs) := by
  simp [State.memWrite, spanInBounds, memSize, h]

theorem State.memWrite_error {s : State} {a : Nat} {bs : List Byte} (h : 4096 < a + bs.length) :
    s.memWrite a bs = .error (boundsError a) := by
  simp [State.memWrite, spanInBounds, memSize, Nat.not_le.mpr h]

theorem reset_memory_wf (c : Config) : Memory.wf c (State.resetWith c).mem := rfl

end Sys2Proof.Machine
end

