-- ==== Sys2Proof/Laws/Ops.lean ====
section
/-! SUPPORT. One lemma for each shared operation, saying everything it can do: registers, the block transfers, flags, skips, the
keypad, the raising of an error, the fetch. -/

namespace Sys2Proof.Machine

/-! ## Raising -/

/-- `raise` answers one next state: the latch set, nothing else (60_exceptions.md R247). -/
theorem raise_next {e : Error} {s t : State} : raise e s = .next t ↔ t = { s with fault := some e } := by
  simp [raise, eq_comm]

/-! ## Registers -/

theorem State.setV_reg (s : State) (x k : Index16) (b : Byte) :
    (s.setV x b).v[k] = if k = x then b else s.v[k] := by
  simp only [State.setV_v, Fin.getElem_fin, Vector.getElem_set, Fin.ext_iff, eq_comm]

/-- Result first, flag last: `VF` ends as the flag whatever `x` is (10_state.md R23). -/
theorem State.setResultFlag_reg (s : State) (x k : Index16) (r : Byte) (f : Bool) :
    (s.setResultFlag x r f).v[k] = if k = flagReg then flagByte f else if k = x then r else s.v[k] := by
  simp only [State.setResultFlag, State.setFlag, State.setV_reg]

theorem State.setFlag_reg (s : State) (k : Index16) (f : Bool) :
    (s.setFlag f).v[k] = if k = flagReg then flagByte f else s.v[k] := by
  simp only [State.setFlag, State.setV_reg]

theorem flagByte_toNat (f : Bool) : (flagByte f).toNat = if f then 1 else 0 := by
  cases f <;> rfl

/-- The registers `V[k]` onward receive the bytes in order, as many as fit; the others stay. -/
theorem loadRegs_getElem (v : Vector Byte 16) (k : Nat) (bs : List Byte) (j : Nat) (hj : j < 16) :
    (loadRegs v k bs)[j] = if k ≤ j ∧ j < k + bs.length then bs.getD (j - k) 0 else v[j] := by
  induction bs generalizing v k with
  | nil => simp [loadRegs, show ¬ (k ≤ j ∧ j < k) by omega]
  | cons b rest ih =>
    simp only [loadRegs, ih, List.length_cons, Vector.getElem_setIfInBounds]
    by_cases hjk : j = k
    · subst hjk
      simp
    · by_cases hin : k + 1 ≤ j ∧ j < k + 1 + rest.length
      · obtain ⟨d, rfl⟩ : ∃ d, j = k + 1 + d := ⟨j - k - 1, by omega⟩
        have h1 : k + 1 + d - (k + 1) = d := by omega
        have h2 : k + 1 + d - k = d + 1 := by omega
        rw [if_pos hin, if_pos (by omega), h1, h2]
        simp
      · rw [if_neg hin, if_neg (Ne.symm hjk), if_neg (by omega)]

theorem State.setVs_reg (s : State) (bs : List Byte) (k : Index16) :
    (s.setVs bs).v[k] = if k.val < bs.length then bs.getD k.val 0 else s.v[k] := by
  simp [State.setVs, loadRegs_getElem]

@[simp] theorem State.getVs_length (s : State) (x : Index16) : (s.getVs x).length = x.val + 1 := by
  have := x.isLt
  simp only [State.getVs, List.length_take, Vector.length_toList]
  omega

theorem State.getVs_getElem (s : State) (x : Index16) (j : Nat) (hj : j < (s.getVs x).length) :
    (s.getVs x)[j] = s.v[j]'(by have := x.isLt; rw [State.getVs_length] at hj; omega) := by
  simp [State.getVs]

/-- `I` moves past the block, or stays, by the toggle; every other field stays (43_index_memory.md R186, R187). -/
theorem State.stepIndex_eq (s : State) (x : Index16) :
    s.stepIndex x = s.setIndex (if s.config.indexInc then s.index + BitVec.ofNat 16 (x.val + 1) else s.index) := by
  unfold State.stepIndex blockLength
  split <;> rfl

theorem State.stepIndex_byteAt (s : State) (x : Index16) (a : Nat) : (s.stepIndex x).byteAt a = s.byteAt a := by
  rw [State.stepIndex_eq]
  rfl

/-! ## Skips and keys -/

/-- A skip answers a next state always: one instruction further on, or where it was (41_control_flow.md R130). -/
theorem skipIf_eq (c : Bool) (s : State) :
    skipIf c s = .next (s.setPc (if c then s.pc + 2 else s.pc)) := by
  cases c <;> rfl

theorem keyIndex_some {b : Byte} {k : Index16} : keyIndex b = some k ↔ b.toNat = k.val := by
  unfold keyIndex
  split
  · simp [Fin.ext_iff]
  · have := k.isLt
    simp
    omega

theorem keyIndex_none {b : Byte} : keyIndex b = none ↔ 16 ≤ b.toNat := by
  unfold keyIndex
  split <;> simp <;> omega

/-- A skip on a key: the error above 15, else a skip by the key's state (45_keypad_timers.md R221, R222). -/
theorem skipOnKey_valid {s : State} {x k : Index16} (h : s.v[x].toNat = k.val) (wanted : Bool) :
    skipOnKey x wanted s = .next (s.setPc (if s.keys[k] = wanted then s.pc + 2 else s.pc)) := by
  have hk : keyIndex (s.getV x) = some k := keyIndex_some.mpr h
  simp only [skipOnKey, hk, skipIf_eq, State.getKey, beq_iff_eq]

theorem skipOnKey_invalid {s : State} {x : Index16} (h : 16 ≤ s.v[x].toNat) (wanted : Bool) :
    skipOnKey x wanted s = raise (.invalidKeyIndex s.v[x]) s := by
  have hk : keyIndex (s.getV x) = none := keyIndex_none.mpr h
  rw [skipOnKey, hk]
  rfl

theorem State.setKey_key (s : State) (k j : Index16) (b : Bool) :
    (s.setKey k b).keys[j] = if j = k then b else s.keys[j] := by
  simp only [State.setKey_keys, Fin.getElem_fin, Vector.getElem_set, Fin.ext_iff, eq_comm]

/-- The scan of `Fx0A` finds nothing exactly when no key is pressed (45_keypad_timers.md R224). -/
theorem State.leastKey_none {s : State} : s.leastKey = none ↔ ∀ k : Index16, s.keys[k] = false := by
  simp [State.leastKey, State.getKey]

/-- The scan of `Fx0A` finds the least pressed key (45_keypad_timers.md R224). -/
theorem State.leastKey_some {s : State} {k : Index16} :
    s.leastKey = some k ↔ s.keys[k] = true ∧ ∀ j : Index16, j < k → s.keys[j] = false := by
  unfold State.leastKey State.getKey
  rw [List.find?_eq_some_iff_getElem]
  constructor
  · rintro ⟨hk, i, hi, he, hl⟩
    simp only [List.length_finRange] at hi
    simp only [List.getElem_finRange, Fin.cast_mk] at he
    subst he
    refine ⟨hk, fun j hj => ?_⟩
    have := hl j.val hj
    simpa using this
  · rintro ⟨hk, hl⟩
    refine ⟨hk, k.val, by simp, by simp, fun j hj => ?_⟩
    have := hl ⟨j, by have := k.isLt; omega⟩ hj
    simpa using this

/-! ## Fetch -/

/-- A fetch forms the word of the two bytes at `pc`, big-endian (40_execution_cycle.md R103, 20_memory.md R57). -/
theorem State.fetch_ok {s : State} (h : s.pc.toNat ≤ 4094) :
    s.fetch = .ok (wordOfBytes (s.byteAt s.pc.toNat) (s.byteAt (s.pc.toNat + 1))) := by
  simp [State.fetch, State.memRead_ok (s := s) (a := s.pc.toNat) (n := 2) (by omega), State.bytesAt]

/-- A fetch that would cross address 4095 fails (40_execution_cycle.md R103). -/
theorem State.fetch_error {s : State} (h : 4095 ≤ s.pc.toNat) : s.fetch = .error (boundsError s.pc.toNat) := by
  simp [State.fetch, State.memRead_error (s := s) (a := s.pc.toNat) (n := 2) (by omega)]

end Sys2Proof.Machine
end

