-- ==== Sys2Proof/Laws/Exec.lean ====
section
/-! SUPPORT. What the meanings with more than one outcome answer, as one conditional each, so that no later proof takes their
matches apart: the seven that can raise (spec/60_exceptions.md R240) and `Fx0A`. -/

namespace Sys2Proof.Machine

@[simp] theorem digits_length (b : Byte) : (digits b).length = 3 := rfl

/-- `Fx33` (43_index_memory.md R185). -/
theorem execBcd_eq (s : State) (x : Index16) :
    execBcd x s = if s.base + 3 ≤ 4096 then .next (s.writeBytes s.base (digits (s.getV x)))
      else raise (boundsError s.base) s := by
  unfold execBcd
  split_ifs with h
  · rw [State.memWrite_ok (by simpa using h)]
  · rw [State.memWrite_error (by simp only [digits_length]; omega)]

/-- `Fx55` (43_index_memory.md R186). -/
theorem execStore_eq (s : State) (x : Index16) :
    execStore x s = if s.base + (x.val + 1) ≤ 4096 then .next ((s.writeBytes s.base (s.getVs x)).stepIndex x)
      else raise (boundsError s.base) s := by
  unfold execStore
  split_ifs with h
  · rw [State.memWrite_ok (by simpa using h)]
  · rw [State.memWrite_error (by simp only [State.getVs_length]; omega)]

/-- `Fx65` (43_index_memory.md R187). -/
theorem execLoad_eq (s : State) (x : Index16) :
    execLoad x s = if s.base + (x.val + 1) ≤ 4096 then .next ((s.setVs (s.bytesAt s.base (x.val + 1))).stepIndex x)
      else raise (boundsError s.base) s := by
  unfold execLoad blockLength
  split_ifs with h
  · rw [State.memRead_ok h]
  · rw [State.memRead_error (by omega)]

/-- `Dxyn` (44_display.md R202). -/
theorem execDrw_eq (s : State) (x y : Index16) (n : Nibble) :
    execDrw x y n s = if s.base + n.toNat ≤ 4096 then
        .next ((s.setFb (drawSprite s.fb (s.originRow (s.getV y)) (s.originColumn (s.getV x))
            (s.bytesAt s.base n.toNat)).1).setFlag
          (drawSprite s.fb (s.originRow (s.getV y)) (s.originColumn (s.getV x)) (s.bytesAt s.base n.toNat)).2)
      else raise (boundsError s.base) s := by
  unfold execDrw
  split_ifs with h
  · rw [State.memRead_ok h]
  · rw [State.memRead_error (by omega)]

/-- `00EE` on a non-empty stack (41_control_flow.md R131). -/
theorem execRet_push {s : State} {rest : List Word} {a : Word} (h : s.stack = rest ++ [a]) :
    execRet s = .next (s.dropTop.setPc a) := by
  simp [execRet, State.top, h]

/-- `00EE` on an empty stack (41_control_flow.md R131). -/
theorem execRet_empty {s : State} (h : s.stack = []) : execRet s = raise .stackUnderflow s := by
  simp [execRet, State.top, h]

/-- `00EE` in every state: the error, or a pop. -/
theorem execRet_cases (s : State) :
    (s.stack = [] ∧ execRet s = raise .stackUnderflow s) ∨
    ∃ rest a, s.stack = rest ++ [a] ∧ execRet s = .next (s.dropTop.setPc a) := by
  rcases List.eq_nil_or_concat s.stack with h | ⟨rest, a, h⟩
  · exact .inl ⟨h, execRet_empty h⟩
  · rw [List.concat_eq_append] at h
    exact .inr ⟨rest, a, h, execRet_push h⟩

/-- `Ex9E` and `ExA1` in every state: the error, or a skip (45_keypad_timers.md R221, R222). -/
theorem skipOnKey_cases (x : Index16) (wanted : Bool) (s : State) :
    (16 ≤ s.v[x].toNat ∧ skipOnKey x wanted s = raise (.invalidKeyIndex s.v[x]) s) ∨
    ∃ k : Index16, s.v[x].toNat = k.val ∧
      skipOnKey x wanted s = .next (s.setPc (if s.keys[k] = wanted then s.pc + 2 else s.pc)) := by
  by_cases h : s.v[x].toNat < 16
  · exact .inr ⟨⟨_, h⟩, rfl, skipOnKey_valid rfl wanted⟩
  · exact .inl ⟨by omega, skipOnKey_invalid (by omega) wanted⟩

/-- `Fx0A` in every state: a key reported and released, or the wait (45_keypad_timers.md R224). -/
theorem execLdKey_cases (x : Index16) (s : State) :
    (∃ k, s.leastKey = some k ∧ execLdKey x s = .next ((s.setV x (BitVec.ofNat 8 k.val)).setKey k false)) ∨
    (s.leastKey = none ∧ execLdKey x s = .next s.rewind) := by
  unfold execLdKey
  cases h : s.leastKey with
  | none => exact .inr ⟨rfl, rfl⟩
  | some k => exact .inl ⟨k, rfl, rfl⟩

end Sys2Proof.Machine
end

