-- ==== Sys2Proof/Laws/PerInstr.lean ====
section
/-! SUPPORT. A statement about every instruction as syntax, one lemma a constructor: the word an instruction encodes to lies in
the instruction's own row of spec/30_encoding.md R85. -/

namespace Sys2Proof.Laws.EncodeRow

/-- The mask and the match value of an instruction's row (R85). -/
def row : Instr → Word × Word
  | .cls => (0xFFFF, 0x00E0)
  | .ret => (0xFFFF, 0x00EE)
  | .jp _ => (0xF000, 0x1000)
  | .call _ => (0xF000, 0x2000)
  | .seImm _ _ => (0xF000, 0x3000)
  | .sneImm _ _ => (0xF000, 0x4000)
  | .seReg _ _ => (0xF000, 0x5000)
  | .ldImm _ _ => (0xF000, 0x6000)
  | .addImm _ _ => (0xF000, 0x7000)
  | .ldReg _ _ => (0xF00F, 0x8000)
  | .orReg _ _ => (0xF00F, 0x8001)
  | .andReg _ _ => (0xF00F, 0x8002)
  | .xorReg _ _ => (0xF00F, 0x8003)
  | .addReg _ _ => (0xF00F, 0x8004)
  | .sub _ _ => (0xF00F, 0x8005)
  | .shr _ _ => (0xF00F, 0x8006)
  | .subn _ _ => (0xF00F, 0x8007)
  | .shl _ _ => (0xF00F, 0x800E)
  | .sneReg _ _ => (0xF000, 0x9000)
  | .ldI _ => (0xF000, 0xA000)
  | .jpOff _ _ => (0xF000, 0xB000)
  | .rnd _ _ => (0xF000, 0xC000)
  | .drw _ _ _ => (0xF000, 0xD000)
  | .skp _ => (0xF0FF, 0xE09E)
  | .sknp _ => (0xF0FF, 0xE0A1)
  | .ldFromDt _ => (0xF0FF, 0xF007)
  | .ldKey _ => (0xF0FF, 0xF00A)
  | .ldDt _ => (0xF0FF, 0xF015)
  | .ldSt _ => (0xF0FF, 0xF018)
  | .addI _ => (0xF0FF, 0xF01E)
  | .ldFont _ => (0xF0FF, 0xF029)
  | .bcd _ => (0xF0FF, 0xF033)
  | .store _ => (0xF0FF, 0xF055)
  | .load _ => (0xF0FF, 0xF065)

/-- The encoded word, masked, is the row's match value. -/
def Statement (i : Instr) : Prop := encode i &&& (row i).1 = (row i).2

theorem and_opMask_of_toNat {w : Word} {k : Nat} {p : Word} (h : w.toNat / 4096 = k) (hp : p.toNat = k * 4096) :
    w &&& 0xF000#16 = p := by
  apply BitVec.eq_of_toNat_eq
  rw [toNat_and_opMask, h, hp]

theorem wordNNN_row (op : Nibble) (nnn : Addr12) {p : Word} (hp : p.toNat = op.toNat * 4096) :
    wordNNN op nnn &&& 0xF000#16 = p :=
  and_opMask_of_toNat (by rw [← fieldOp_toNat, fieldOp_wordNNN]) hp

theorem wordXNN_row (op : Nibble) (x : Index16) (nn : Byte) {p : Word} (hp : p.toNat = op.toNat * 4096) :
    wordXNN op x nn &&& 0xF000#16 = p :=
  and_opMask_of_toNat (by rw [← fieldOp_toNat, fieldOp_wordXNN]) hp

theorem wordXYN_row (op : Nibble) (x y : Index16) (n : Nibble) {p : Word} (hp : p.toNat = op.toNat * 4096) :
    wordXYN op x y n &&& 0xF000#16 = p :=
  and_opMask_of_toNat (by rw [← fieldOp_toNat, fieldOp_wordXYN]) hp

theorem wordXYN_keyRow (op : Nibble) (x y : Index16) (n : Nibble) {p : Word}
    (hp : p.toNat = op.toNat * 4096 + n.toNat) : wordXYN op x y n &&& 0xF00F#16 = p := by
  apply BitVec.eq_of_toNat_eq
  rw [toNat_and_xykMask, ← fieldOp_toNat, ← fieldN_toNat, fieldOp_wordXYN, fieldN_wordXYN, hp]

theorem wordXNN_keyRow (op : Nibble) (x : Index16) (nn : Byte) {p : Word}
    (hp : p.toNat = op.toNat * 4096 + nn.toNat) : wordXNN op x nn &&& 0xF0FF#16 = p := by
  apply BitVec.eq_of_toNat_eq
  rw [toNat_and_xkkMask, ← fieldOp_toNat, ← fieldNN_toNat, fieldOp_wordXNN, fieldNN_wordXNN, hp]

theorem cls : Statement .cls := by unfold Statement; rfl
theorem ret : Statement .ret := by unfold Statement; rfl
theorem jp (nnn : Addr12) : Statement (.jp nnn) := wordNNN_row _ _ rfl
theorem call (nnn : Addr12) : Statement (.call nnn) := wordNNN_row _ _ rfl
theorem seImm (x : Index16) (nn : Byte) : Statement (.seImm x nn) := wordXNN_row _ _ _ rfl
theorem sneImm (x : Index16) (nn : Byte) : Statement (.sneImm x nn) := wordXNN_row _ _ _ rfl
theorem seReg (x y : Index16) : Statement (.seReg x y) := wordXYN_row _ _ _ _ rfl
theorem ldImm (x : Index16) (nn : Byte) : Statement (.ldImm x nn) := wordXNN_row _ _ _ rfl
theorem addImm (x : Index16) (nn : Byte) : Statement (.addImm x nn) := wordXNN_row _ _ _ rfl
theorem ldReg (x y : Index16) : Statement (.ldReg x y) := wordXYN_keyRow _ _ _ _ rfl
theorem orReg (x y : Index16) : Statement (.orReg x y) := wordXYN_keyRow _ _ _ _ rfl
theorem andReg (x y : Index16) : Statement (.andReg x y) := wordXYN_keyRow _ _ _ _ rfl
theorem xorReg (x y : Index16) : Statement (.xorReg x y) := wordXYN_keyRow _ _ _ _ rfl
theorem addReg (x y : Index16) : Statement (.addReg x y) := wordXYN_keyRow _ _ _ _ rfl
theorem sub (x y : Index16) : Statement (.sub x y) := wordXYN_keyRow _ _ _ _ rfl
theorem shr (x y : Index16) : Statement (.shr x y) := wordXYN_keyRow _ _ _ _ rfl
theorem subn (x y : Index16) : Statement (.subn x y) := wordXYN_keyRow _ _ _ _ rfl
theorem shl (x y : Index16) : Statement (.shl x y) := wordXYN_keyRow _ _ _ _ rfl
theorem sneReg (x y : Index16) : Statement (.sneReg x y) := wordXYN_row _ _ _ _ rfl
theorem ldI (nnn : Addr12) : Statement (.ldI nnn) := wordNNN_row _ _ rfl
theorem jpOff (nnn : Addr12) (x : Index16) : Statement (.jpOff nnn x) := wordNNN_row _ _ rfl
theorem rnd (x : Index16) (nn : Byte) : Statement (.rnd x nn) := wordXNN_row _ _ _ rfl
theorem drw (x y : Index16) (n : Nibble) : Statement (.drw x y n) := wordXYN_row _ _ _ _ rfl
theorem skp (x : Index16) : Statement (.skp x) := wordXNN_keyRow _ _ _ rfl
theorem sknp (x : Index16) : Statement (.sknp x) := wordXNN_keyRow _ _ _ rfl
theorem ldFromDt (x : Index16) : Statement (.ldFromDt x) := wordXNN_keyRow _ _ _ rfl
theorem ldKey (x : Index16) : Statement (.ldKey x) := wordXNN_keyRow _ _ _ rfl
theorem ldDt (x : Index16) : Statement (.ldDt x) := wordXNN_keyRow _ _ _ rfl
theorem ldSt (x : Index16) : Statement (.ldSt x) := wordXNN_keyRow _ _ _ rfl
theorem addI (x : Index16) : Statement (.addI x) := wordXNN_keyRow _ _ _ rfl
theorem ldFont (x : Index16) : Statement (.ldFont x) := wordXNN_keyRow _ _ _ rfl
theorem bcd (x : Index16) : Statement (.bcd x) := wordXNN_keyRow _ _ _ rfl
theorem store (x : Index16) : Statement (.store x) := wordXNN_keyRow _ _ _ rfl
theorem load (x : Index16) : Statement (.load x) := wordXNN_keyRow _ _ _ rfl

end Sys2Proof.Laws.EncodeRow
end

