-- ==== Sys2Proof/Laws/Step.lean ====
section
/-! SUPPORT. What a step can do, said once: every claim about `step` goes by these cases, not by unfolding it. -/

namespace Sys2Proof.Machine

/-! ## The cycle -/

/-- A cycle that answers a next state latched a fetch error, latched an illegal word, or executed an instruction
(40_execution_cycle.md R102). -/
theorem cycle_cases {s t : State} (h : cycle s = .next t) :
    (4095 ≤ s.pc.toNat ∧ t = { s with fault := some (boundsError s.pc.toNat) }) ∨
    (s.pc.toNat ≤ 4094 ∧ ∃ w, s.fetch = .ok w ∧ (∃ e, decodeWord w = .error e) ∧
      t = { s.advance with fault := some (.unsupportedOpcode w) }) ∨
    (s.pc.toNat ≤ 4094 ∧ ∃ w i, s.fetch = .ok w ∧ decodeWord w = .ok i ∧ exec i s.advance = .next t) := by
  by_cases hpc : s.pc.toNat ≤ 4094
  · right
    obtain ⟨w, hw⟩ : ∃ w, s.fetch = .ok w := ⟨_, State.fetch_ok hpc⟩
    simp only [cycle, hw, decodeExecute] at h
    cases hd : decodeWord w with
    | error e =>
      rw [hd] at h
      exact .inl ⟨hpc, w, hw, ⟨e, hd⟩, raise_next.mp h⟩
    | ok i =>
      rw [hd] at h
      exact .inr ⟨hpc, w, i, hw, hd, h⟩
  · left
    have hge : 4095 ≤ s.pc.toNat := by omega
    simp only [cycle, State.fetch_error hge] at h
    exact ⟨hge, raise_next.mp h⟩

/-! ## The machine's own move -/

/-- A frame has a batch unless `FRAME_RATE = 0`, and it is `INSTR_PER_FRAME` (40_execution_cycle.md R109). -/
theorem frameBatch_some {c : Config} {n : Nat} : frameBatch c = some n ↔ c.frameRate ≠ 0 ∧ c.instrPerFrame = n := by
  simp [frameBatch]

theorem frameBatch_none {c : Config} : frameBatch c = none ↔ c.frameRate = 0 := by
  simp [frameBatch]

/-- What the machine's own move can answer as a next state (40_execution_cycle.md R101, R108). -/
theorem machineMove_cases {s t : State} (h : machineMove s = .next t) :
    (s.run = .idle ∧ t = s) ∨
    (s.run = .running ∧ s.phase = .tick ∧ ∃ n, frameBatch s.config = some n ∧
      t = { s.tick with phase := .batch n }) ∨
    (s.run = .running ∧ s.phase = .batch 0 ∧
      t = { s with output := some { fb := s.fb, tone := s.toneOn }, phase := if s.stop then .over else .tick }) ∨
    (s.run = .running ∧ ∃ n, s.phase = .batch (n + 1) ∧ cycle { s with phase := .batch n } = .next t) := by
  unfold machineMove at h
  split at h
  · rename_i hr
    left
    cases h
    exact ⟨hr, rfl⟩
  · rename_i hr hp
    right; left
    unfold beginFrame at h
    split at h
    · cases h
    · rename_i n hn
      cases h
      exact ⟨hr, hp, n, hn, rfl⟩
  · rename_i hr hp
    right; right; left
    cases h
    exact ⟨hr, hp, rfl⟩
  · rename_i n hr hp
    right; right; right
    exact ⟨hr, n, hp, h⟩
  · cases h

/-! ## The host -/

/-- What a host event can answer as a next state (40_execution_cycle.md R112). -/
theorem hostEvent_cases {e : HostEvent} {s t : State} (h : hostEvent e s = .next t) :
    (∃ bytes, e = .loadProgram bytes ∧ s.run = .idle ∧ bytes.length ≤ progMax ∧ t = s.writeBytes progBase bytes) ∨
    (e = .start ∧ s.run = .idle ∧ (∃ n, frameBatch s.config = some n) ∧ t = { s with run := .running }) ∨
    (∃ k b, e = .setKey k b ∧ t = s.setKey k b) ∨
    (∃ b, e = .setStop b ∧ t = { s with stop := b }) := by
  cases e with
  | loadProgram bytes =>
    left
    simp only [hostEvent, loadProgram] at h
    split at h
    · cases h
    · rename_i hr
      split at h
      · rename_i hl
        cases h
        exact ⟨bytes, rfl, hr, hl, rfl⟩
      · cases h
  | start =>
    right; left
    simp only [hostEvent, start] at h
    split at h
    · cases h
    · rename_i hr
      split at h
      · cases h
      · rename_i n hn
        cases h
        exact ⟨rfl, hr, ⟨n, hn⟩, rfl⟩
  | setKey k b =>
    right; right; left
    cases h
    exact ⟨k, b, rfl, rfl⟩
  | setStop b =>
    right; right; right
    cases h
    exact ⟨b, rfl, rfl⟩

/-! ## The step -/

/-- A step that answers a next state found no error latched, and is a host event, or the machine's own move after a yield or
with the host silent. -/
theorem step_cases {s t : State} (h : step s = .next t) :
    s.fault = none ∧
      ((∃ e rest, s.host = .event e :: rest ∧ hostEvent e { s with host := rest } = .next t) ∨
       (∃ rest, s.host = .yield :: rest ∧ machineMove { s with host := rest } = .next t) ∨
       (s.host = [] ∧ machineMove s = .next t)) := by
  unfold step stepMove at h
  split at h
  · cases h
  · rename_i he
    have hf : s.fault = none := by
      unfold State.ended at he
      split at he <;> simp_all
    refine ⟨hf, ?_⟩
    unfold nextMove at h
    split at h
    · rename_i hh
      exact .inr (.inr ⟨hh, h⟩)
    · rename_i rest hh
      exact .inr (.inl ⟨rest, hh, h⟩)
    · rename_i e rest hh
      exact .inl ⟨e, rest, hh, h⟩

/-- With an error latched there is no next state (60_exceptions.md R247). -/
theorem step_latched {s : State} {e : Error} (h : s.fault = some e) : step s = .fault (.sessionOver e) := by
  simp [step, stepMove, State.ended, h]

/-- A step of a machine that is about to run a cycle is that cycle, one slot of the batch taken (40_execution_cycle.md R110). -/
theorem step_cycle {s : State} {left : Nat} (hr : s.run = .running) (hf : s.fault = none) (hh : s.host = [])
    (hp : s.phase = .batch (left + 1)) : step s = cycle { s with phase := .batch left } := by
  have he : s.ended = none := by simp [State.ended, hf, hp]
  simp [step, stepMove, he, nextMove, hh, machineMove, hr, hp]

end Sys2Proof.Machine
end

