-- ==== Sys2Proof/Tests/Slice0.lean ====
section
/-! SUPPORT. Small tests against the spec's own vectors (spec/95_test_vectors.md), each about one word or one step, and a witness for the
hypotheses of each statement. Expected values are the spec's. -/

namespace Sys2Proof.Tests

open Sys2Proof Sys2Proof.Machine

/-! ## Well-formedness -/

/-- `Bnnn` with an `x` that is not the top nibble of its `nnn` is no instruction (30_encoding.md R81). -/
theorem test_wf_refuses : (Instr.jpOff 0x123 2).wf = false := by decide

theorem test_wf_accepts : (Instr.jpOff 0x123 1).wf = true ∧ (Instr.drw 15 15 15).wf = true := by decide

/-! ## Decoding: the words of 95_test_vectors.md 2.1, written out bit by bit from 30_encoding.md R85 -/

theorem test_decode_display :
    decodeWord 0b0000000011100000#16 = .ok .cls ∧
    decodeWord 0b1101000100100011#16 = .ok (.drw 1 2 3) := by decide

theorem test_decode_control :
    decodeWord 0b0000000011101110#16 = .ok .ret ∧
    decodeWord 0b0001101010111100#16 = .ok (.jp 0xABC) ∧
    decodeWord 0b0010101010111100#16 = .ok (.call 0xABC) ∧
    decodeWord 0b0011101000010010#16 = .ok (.seImm 10 0x12) ∧
    decodeWord 0b0100101000010010#16 = .ok (.sneImm 10 0x12) ∧
    decodeWord 0b0101101010110000#16 = .ok (.seReg 10 11) ∧
    decodeWord 0b1001101010110000#16 = .ok (.sneReg 10 11) ∧
    decodeWord 0b1011000100100011#16 = .ok (.jpOff 0x123 1) := by decide

theorem test_decode_load_random :
    decodeWord 0b0110110000110100#16 = .ok (.ldImm 12 0x34) ∧
    decodeWord 0b0111110000110100#16 = .ok (.addImm 12 0x34) ∧
    decodeWord 0b1100000111111111#16 = .ok (.rnd 1 0xFF) := by decide

theorem test_decode_alu :
    decodeWord 0b1000101010110000#16 = .ok (.ldReg 10 11) ∧
    decodeWord 0b1000101010110001#16 = .ok (.orReg 10 11) ∧
    decodeWord 0b1000101010110010#16 = .ok (.andReg 10 11) ∧
    decodeWord 0b1000101010110011#16 = .ok (.xorReg 10 11) ∧
    decodeWord 0b1000101010110100#16 = .ok (.addReg 10 11) ∧
    decodeWord 0b1000101010110101#16 = .ok (.sub 10 11) ∧
    decodeWord 0b1000101010110110#16 = .ok (.shr 10 11) ∧
    decodeWord 0b1000101010110111#16 = .ok (.subn 10 11) ∧
    decodeWord 0b1000101010111110#16 = .ok (.shl 10 11) := by decide

theorem test_decode_index :
    decodeWord 0b1010000100100011#16 = .ok (.ldI 0x123) ∧
    decodeWord 0b1111000100011110#16 = .ok (.addI 1) ∧
    decodeWord 0b1111000100101001#16 = .ok (.ldFont 1) ∧
    decodeWord 0b1111000100110011#16 = .ok (.bcd 1) ∧
    decodeWord 0b1111000101010101#16 = .ok (.store 1) ∧
    decodeWord 0b1111000101100101#16 = .ok (.load 1) := by decide

theorem test_decode_keypad_timers :
    decodeWord 0b1110000110011110#16 = .ok (.skp 1) ∧
    decodeWord 0b1110000110100001#16 = .ok (.sknp 1) ∧
    decodeWord 0b1111000100000111#16 = .ok (.ldFromDt 1) ∧
    decodeWord 0b1111000100001010#16 = .ok (.ldKey 1) ∧
    decodeWord 0b1111000100010101#16 = .ok (.ldDt 1) ∧
    decodeWord 0b1111000100011000#16 = .ok (.ldSt 1) := by decide

/-- The low nibble of `5xyn` and `9xyn` is ignored (D10). -/
theorem test_decode_ignored_nibble :
    decodeWord 0b0101101010110111#16 = .ok (.seReg 10 11) ∧
    decodeWord 0b1001101010110001#16 = .ok (.sneReg 10 11) := by decide

theorem test_decode_illegal :
    decodeWord 0x0000 = .error (.unsupportedOpcode 0x0000) ∧
    decodeWord 0x00E1 = .error (.unsupportedOpcode 0x00E1) ∧
    decodeWord 0x01E0 = .error (.unsupportedOpcode 0x01E0) ∧
    decodeWord 0x8AB8 = .error (.unsupportedOpcode 0x8AB8) ∧
    decodeWord 0x8ABF = .error (.unsupportedOpcode 0x8ABF) ∧
    decodeWord 0xE19F = .error (.unsupportedOpcode 0xE19F) ∧
    decodeWord 0xF130 = .error (.unsupportedOpcode 0xF130) ∧
    decodeWord 0xF175 = .error (.unsupportedOpcode 0xF175) ∧
    decodeWord 0xFFFF = .error (.unsupportedOpcode 0xFFFF) := by decide

theorem test_encode :
    encode (.call 0xABC) = 0x2ABC ∧ encode (.addImm 12 0x34) = 0x7C34 ∧ encode (.seReg 10 11) = 0x5AB0 ∧
    encode (.shl 10 11) = 0x8ABE ∧ encode (.jpOff 0x123 1) = 0xB123 ∧ encode (.drw 1 2 3) = 0xD123 ∧
    encode (.sknp 1) = 0xE1A1 ∧ encode (.load 1) = 0xF165 := by decide

/-- The table's numbering: bit 0 is the least significant bit of the word. -/
theorem test_decode_table_word :
    decodeTableWord 16 0x00EE = some .ret ∧ decodeTableWord 16 0xF10A = some (.ldKey 1) ∧
    decodeTableWord 16 0xFFFF = none := by decide

/-- Byte order (95_test_vectors.md 2.1): the bytes 12 34 are the word 0x1234. -/
theorem test_byte_order : decodeBytes [0x12, 0x34, 0x56] = .ok (.jp 0x234, [0x56]) := by decide

/-! ## Small states -/

/-- The reset state with some registers set. -/
def withRegs (rs : List (Index16 × Byte)) : State := rs.foldl (fun s r => s.setV r.1 r.2) State.reset

/-- The same with `I`. -/
def withIndex (a : Word) (rs : List (Index16 × Byte)) : State := (withRegs rs).setIndex a

/-- The same with bytes of memory from `I` up. -/
def withBytes (a : Word) (bytes : List Byte) (rs : List (Index16 × Byte)) : State :=
  (withIndex a rs).writeBytes a.toNat bytes

/-- A core at the start of a cycle at an address, with bytes there. -/
def atCycle (pc : Word) (bytes : List Byte) : State :=
  { (State.reset.setPc pc).writeBytes pc.toNat bytes with run := .running, phase := .batch 1 }

/-- The next state satisfies a test. -/
def andThen (r : Result) (p : State → Bool) : Bool :=
  match r with
  | .next t => p t
  | .fault _ => false
  | .refused _ => false

/-- Two registers after an instruction. -/
def regsAfter (i : Instr) (s : State) (x y : Index16) (a b : Byte) : Bool :=
  andThen (exec i s) (fun t => t.getV x == a && t.getV y == b)

/-- `pc` after an instruction at 0x200, whose post-fetch counter is 0x202. -/
def pcAfter (i : Instr) (s : State) (a : Word) : Bool :=
  andThen (exec i (s.setPc 0x202)) (fun t => t.pc == a)

/-- The error latched by an instruction at 0x200, `pc` left at 0x202. -/
def latched (i : Instr) (s : State) (e : Error) : Bool :=
  andThen (exec i (s.setPc 0x202)) (fun t => t.fault == some e && t.pc == 0x202)

/-! ## Control transfer (95_test_vectors.md 2.3) -/

theorem test_ret : andThen (exec .ret (((State.reset.push 0x206).push 0x300).setPc 0x312))
    (fun t => t.pc == 0x300 && t.stack == [0x206]) = true := by decide

theorem test_ret_empty : latched .ret State.reset .stackUnderflow = true := by decide

theorem test_jp : pcAfter (.jp 0xFFF) State.reset 0xFFF = true := by decide

theorem test_call : andThen (exec (.call 0x300) ((State.reset.push 0x206).setPc 0x300))
    (fun t => t.pc == 0x300 && t.stack == [0x206, 0x300]) = true := by decide

theorem test_seImm : pcAfter (.seImm 15 0x01) (withRegs [(15, 1)]) 0x204 = true ∧
    pcAfter (.seImm 1 0x00) (withRegs [(1, 3)]) 0x202 = true := by decide

theorem test_sneImm : pcAfter (.sneImm 0 0x07) (withRegs [(0, 7)]) 0x202 = true ∧
    pcAfter (.sneImm 0 0x08) (withRegs [(0, 7)]) 0x204 = true := by decide

theorem test_seReg : pcAfter (.seReg 1 2) (withRegs [(1, 9), (2, 9)]) 0x204 = true ∧
    pcAfter (.seReg 1 2) (withRegs [(1, 9), (2, 8)]) 0x202 = true := by decide

theorem test_sneReg : pcAfter (.sneReg 1 2) (withRegs [(1, 9), (2, 8)]) 0x204 = true ∧
    pcAfter (.sneReg 1 1) (withRegs [(1, 9)]) 0x202 = true := by decide

theorem test_jpOff : pcAfter (.jpOff 0xFFF 15) (withRegs [(0, 0xFF)]) 0x10FE = true := by decide

theorem test_jpOff_vx : pcAfter (.jpOff 0x300 3)
    { withRegs [(0, 4), (3, 0x10)] with config := { defaultConfig with jumpReg := .vx } } 0x310 = true := by decide

/-! ## Load, arithmetic, logic, shift (95_test_vectors.md 2.4) -/

theorem test_ldImm : regsAfter (.ldImm 15 0x07) State.reset 15 15 0x07 0x07 = true := by decide

theorem test_addImm : regsAfter (.addImm 1 0x03) (withRegs [(1, 0xFE), (15, 1)]) 1 15 0x01 0x01 = true := by decide

theorem test_ldReg : regsAfter (.ldReg 0 1) (withRegs [(0, 0x11), (1, 0x33), (15, 1)]) 0 15 0x33 0x01 = true := by decide

theorem test_orReg : regsAfter (.orReg 0 1) (withRegs [(0, 0x0C), (1, 0x0A), (15, 1)]) 0 15 0x0E 0x00 = true ∧
    regsAfter (.orReg 15 1) (withRegs [(15, 0xF0), (1, 0x0F)]) 15 1 0x00 0x0F = true := by decide

theorem test_andReg : regsAfter (.andReg 0 1) (withRegs [(0, 0x0C), (1, 0x0A), (15, 1)]) 0 15 0x08 0x00 = true := by decide

theorem test_xorReg : regsAfter (.xorReg 0 1) (withRegs [(0, 0x0C), (1, 0x0A), (15, 1)]) 0 15 0x06 0x00 = true := by decide

theorem test_addReg : regsAfter (.addReg 0 1) (withRegs [(0, 0xFF), (1, 0xFF)]) 0 15 0xFE 0x01 = true ∧
    regsAfter (.addReg 0 1) (withRegs [(0, 0x7F), (1, 0x01)]) 0 15 0x80 0x00 = true := by decide

/-- The old `VF` is the operand, and the carry overwrites the sum (D5). -/
theorem test_addReg_flag_operand : regsAfter (.addReg 0 15) (withRegs [(0, 0x10), (15, 0x01)]) 0 15 0x11 0x00 = true ∧
    regsAfter (.addReg 15 1) (withRegs [(15, 0xFF), (1, 0x01)]) 15 1 0x01 0x01 = true := by decide

theorem test_sub : regsAfter (.sub 0 1) (withRegs [(0, 0x05), (1, 0x07)]) 0 15 0xFE 0x00 = true ∧
    regsAfter (.sub 0 1) (withRegs [(0, 0x05), (1, 0x05)]) 0 15 0x00 0x01 = true := by decide

theorem test_subn : regsAfter (.subn 0 1) (withRegs [(0, 0x05), (1, 0x07)]) 0 15 0x02 0x01 = true ∧
    regsAfter (.subn 0 1) (withRegs [(0, 0x01), (1, 0x00)]) 0 15 0xFF 0x00 = true := by decide

theorem test_shr : regsAfter (.shr 0 1) (withRegs [(0, 0xAA), (1, 0x05)]) 0 15 0x02 0x01 = true ∧
    regsAfter (.shr 15 1) (withRegs [(1, 0x02)]) 15 1 0x00 0x02 = true := by decide

theorem test_shl : regsAfter (.shl 0 1) (withRegs [(1, 0x81)]) 0 15 0x02 0x01 = true ∧
    regsAfter (.shl 0 1) (withRegs [(1, 0x40)]) 0 15 0x80 0x00 = true := by decide

/-- `Q_SHIFT_SRC = VX` (D13). -/
theorem test_shift_vx :
    regsAfter (.shr 0 1) { withRegs [(0, 0x08), (1, 0x05)] with config := { defaultConfig with shiftSrc := .vx } }
      0 15 0x04 0x00 = true ∧
    regsAfter (.shl 0 1) { withRegs [(0, 0xC0), (1, 0x01)] with config := { defaultConfig with shiftSrc := .vx } }
      0 15 0x80 0x01 = true := by decide

/-- `C000` leaves 00 whatever is drawn. -/
theorem test_rnd : ∃ t, exec (.rnd 0 0x00) (withRegs [(0, 0x5A)]) = .next t ∧ t.getV 0 = 0x00 ∧ t.draws = 1 :=
  ⟨_, rfl, by simp [State.getV, State.setV], rfl⟩

/-! ## Index and memory (95_test_vectors.md 2.5) -/

/-- `I` after an instruction. -/
def indexAfter (i : Instr) (s : State) (a : Word) : Bool := andThen (exec i s) (fun t => t.index == a && t.fault == none)

theorem test_ldI : indexAfter (.ldI 0xFFF) State.reset 0xFFF = true := by decide

theorem test_addI : indexAfter (.addI 0) (withIndex 0xFFF [(0, 0x01)]) 0x1000 = true ∧
    indexAfter (.addI 0) (withIndex 0xFF01 [(0, 0xFF)]) 0x0000 = true := by decide

theorem test_ldFont : indexAfter (.ldFont 0) (withRegs [(0, 0x1A)]) 0x082 = true ∧
    indexAfter (.ldFont 0) (withRegs [(0, 0xFF)]) 0x09B = true := by decide

theorem test_bcd : andThen (exec (.bcd 0) (withIndex 4093 [(0, 234)]))
    (fun t => t.bytesAt 4093 3 == [2, 3, 4] && t.index == 4093) = true := by decide

theorem test_bcd_past_end : latched (.bcd 0) (withIndex 4094 [(0, 234)]) (.outOfBoundsMemoryAccess 4096) = true := by decide

theorem test_store : andThen (exec (.store 2) (withIndex 0x300 [(0, 1), (1, 2), (2, 3), (3, 9)]))
    (fun t => t.bytesAt 0x300 4 == [1, 2, 3, 0] && t.index == 0x303) = true := by decide

theorem test_store_no_increment : andThen (exec (.store 2)
      { withIndex 0x300 [(0, 1), (1, 2), (2, 3), (3, 9)] with config := { defaultConfig with indexInc := false } })
    (fun t => t.bytesAt 0x300 4 == [1, 2, 3, 0] && t.index == 0x300) = true := by decide

theorem test_load : andThen (exec (.load 2) (withBytes 0x300 [2, 3, 4] [(3, 9)]))
    (fun t => t.v.toList.take 4 == [2, 3, 4, 9] && t.index == 0x303) = true := by decide

/-- `F165` at the font (D12), and `F065` at the end of memory. -/
theorem test_load_ends : andThen (exec (.load 1) (withIndex 0x050 []))
      (fun t => t.v.toList.take 2 == [0xF0, 0x90] && t.index == 0x052) = true ∧
    latched (.load 0) (withIndex 4096 []) (.outOfBoundsMemoryAccess 4096) = true := by decide

/-! ## Display (95_test_vectors.md 2.6) -/

/-- A few neighbouring pixels of one row, and `VF`, after an instruction. -/
def drawn (i : Instr) (s : State) (row : Fin 32) (col : Nat) (pixels : List Bool) (flag : Byte) : Bool :=
  andThen (exec i s) (fun t => (t.fb[row].toList.drop col).take pixels.length == pixels && t.getV 15 == flag)

/-- A framebuffer with one pixel set. -/
def onePixel (row col : Nat) : Framebuffer := (plot (blankFb, false) row col true).1

theorem test_cls : drawn .cls ((withRegs [(15, 1)]).setFb (onePixel 3 5)) 3 4 [false, false, false] 1 = true := by decide

theorem test_drw_clips :
    drawn (.drw 0 1 1) (withBytes 0x300 [0xFF] [(0, 60)]) 0 59 [false, true, true, true, true] 0 = true ∧
    drawn (.drw 0 1 1) (withBytes 0x300 [0xFF] [(0, 60)]) 0 0 [false, false, false, false] 0 = true := by decide

theorem test_drw_wraps : drawn (.drw 0 1 1) (withBytes 0x300 [0x80] [(0, 255), (1, 255)]) 31 62 [false, true] 0 = true := by
  decide

theorem test_drw_clip_origin : drawn (.drw 0 1 1)
    { withBytes 0x300 [0x80] [(0, 64)] with config := { defaultConfig with origin := .clip } } 0 0 [false, false] 0 = true := by
  decide

/-- `D011` with `mem[I] = C0` on `fb[0][0]` set; and `DF01`, whose column is the old `VF`. -/
theorem test_drw_collision :
    drawn (.drw 0 1 1) ((withBytes 0x300 [0xC0] []).setFb (onePixel 0 0)) 0 0 [false, true, false] 1 = true ∧
    drawn (.drw 15 0 1) (withBytes 0x300 [0x80] [(15, 5)]) 0 4 [false, true, false] 0 = true := by decide

theorem test_drw_past_end : latched (.drw 0 1 7) (withIndex 4090 [(15, 1)]) (.outOfBoundsMemoryAccess 4096) = true ∧
    latched (.drw 0 1 0) (withIndex 4097 []) (.outOfBoundsMemoryAccess 4097) = true ∧
    drawn (.drw 0 1 0) (withIndex 4096 [(15, 1)]) 0 0 [false] 0 = true := by decide

/-! ## Keypad and timers (95_test_vectors.md 2.7) -/

theorem test_skp : pcAfter (.skp 0) ((withRegs [(0, 0x0F)]).setKey 15 true) 0x204 = true ∧
    pcAfter (.skp 0) (withRegs [(0, 5)]) 0x202 = true := by decide

theorem test_skp_invalid : latched (.skp 0) (withRegs [(0, 0x10)]) (.invalidKeyIndex 16) = true ∧
    latched (.sknp 0) (withRegs [(0, 0xFF)]) (.invalidKeyIndex 255) = true := by decide

theorem test_sknp : pcAfter (.sknp 0) (withRegs [(0, 5)]) 0x204 = true ∧
    pcAfter (.sknp 0) ((withRegs [(0, 5)]).setKey 5 true) 0x202 = true := by decide

theorem test_ldKey : andThen (exec (.ldKey 0) ((State.reset.setKey 7 true).setKey 9 true))
    (fun t => t.getV 0 == 7 && t.getKey 7 == false && t.getKey 9 == true && t.pc == 0x200) = true := by decide

theorem test_ldKey_waits : pcAfter (.ldKey 0) (withRegs [(0, 0x33)]) 0x200 = true ∧
    regsAfter (.ldKey 0) (withRegs [(0, 0x33)]) 0 15 0x33 0 = true := by decide

theorem test_ldFromDt : regsAfter (.ldFromDt 1) (State.reset.setDt 0x2A) 1 0 0x2A 0 = true := by decide

theorem test_ldDt : andThen (exec (.ldDt 0) (withRegs [(0, 7)])) (fun t => t.dt == 7 && t.st == 0) = true := by decide

theorem test_ldSt : andThen (exec (.ldSt 3) (withRegs [(3, 2)])) (fun t => t.st == 2 && t.dt == 0) = true := by decide

theorem test_tick : ((State.reset.setDt 1).setSt 255).tick.dt = 0 ∧ ((State.reset.setDt 1).setSt 255).tick.st = 254 ∧
    State.reset.tick.dt = 0 := by decide

/-! ## The cycle (95_test_vectors.md 2.2, 2.8) -/

theorem test_step_odd_pc : andThen (step (atCycle 0x203 [0x60, 0x2A]))
    (fun t => t.getV 0 == 0x2A && t.pc == 0x205 && t.phase == .batch 0) = true := by decide

theorem test_step_last_word : andThen (step (atCycle 4094 [0x12, 0x00])) (fun t => t.pc == 0x200 && t.fault == none) = true := by
  decide

theorem test_step_past_end : andThen (step (atCycle 4095 [0x60]))
    (fun t => t.fault == some (.outOfBoundsMemoryAccess 4096) && t.pc == 4095) = true := by decide

/-- An empty ROM: the word at 0x200 is 0000 (D3). -/
theorem test_step_empty_rom : andThen (step (atCycle 0x200 []))
    (fun t => t.fault == some (.unsupportedOpcode 0x0000) && t.pc == 0x202) = true := by decide

/-- The host's placement: the very next step after reset runs the word. -/
theorem test_withFetchWord : andThen (step (State.reset.withFetchWord 16 0x60EA)) (fun t => t.getV 0 == 0xEA) = true := by
  decide

/-! ## Memory (95_test_vectors.md S1, S2) -/

theorem test_memory_form :
    (State.reset.writeBytes 0x300 [1, 2]).mem.map (fun c => c.1) = [0x300, 0x301] ∧
    ((State.reset.writeBytes 0x300 [1, 2]).writeBytes 0x300 [0]).mem = [(0x301, 2)] ∧
    (State.reset.writeBytes 0x050 [0xF0]).mem = [] ∧
    Memory.wf defaultConfig [(2, 1), (1, 1)] = false ∧ Memory.wf defaultConfig [(4096, 1)] = false ∧
    Memory.wf defaultConfig [(1, 0)] = false := by decide

theorem test_memory_ends :
    State.reset.memRead 4095 1 = .ok [0] ∧
    State.reset.memRead 4096 1 = .error (.outOfBoundsMemoryAccess 4096) ∧
    State.reset.memWrite 4096 [0] = .error (.outOfBoundsMemoryAccess 4096) := by decide

theorem test_program_too_large (bytes : List Byte) (h : bytes.length = 3585) :
    step { State.reset with host := [.event (.loadProgram bytes)] } = .fault .programTooLarge := by
  simp [step, stepMove, State.ended, nextMove, hostEvent, loadProgram, State.reset, State.resetWith, progMax, h]

/-! ## Witnesses: a concrete state and operands that meet all the hypotheses of each statement -/

theorem witness_EncodedInstructionDecodes : (Instr.jpOff 0xFFF 15).wf = true := by decide

theorem witness_DecodedWordEncodes :
    decodeWord 0x5AB7 = .ok (.seReg 10 11) ∧ decodeWord 0xB123 = .ok (.jpOff 0x123 1) := by decide

/-- A word fetched at the last address where one can be. -/
theorem witness_StepRunsDecodedInstruction :
    (atCycle 4094 [0x12, 0x34]).AtCycle 0 ∧ (atCycle 4094 [0x12, 0x34]).pc.toNat ≤ 4094 ∧
    (0x1234 : Word).toNat = 256 * ((atCycle 4094 [0x12, 0x34]).byteAt 4094).toNat +
      ((atCycle 4094 [0x12, 0x34]).byteAt (4094 + 1)).toNat ∧
    decodeWord 0x1234 = .ok (.jp 0x234) :=
  ⟨⟨rfl, rfl, rfl, rfl⟩, by decide, by decide, by decide⟩

theorem witness_FetchPastEndLatchesError :
    (atCycle 4095 []).AtCycle 0 ∧ 4095 ≤ (atCycle 4095 []).pc.toNat ∧
    (atCycle 4096 []).AtCycle 0 ∧ 4095 ≤ (atCycle 4096 []).pc.toNat :=
  ⟨⟨rfl, rfl, rfl, rfl⟩, by decide, ⟨rfl, rfl, rfl, rfl⟩, by decide⟩

theorem witness_IllegalWordLatchesError :
    (atCycle 4094 [0xFF, 0xFF]).AtCycle 0 ∧ (atCycle 4094 [0xFF, 0xFF]).pc.toNat ≤ 4094 ∧
    (0xFFFF : Word).toNat = 256 * ((atCycle 4094 [0xFF, 0xFF]).byteAt 4094).toNat +
      ((atCycle 4094 [0xFF, 0xFF]).byteAt (4094 + 1)).toNat ∧
    IllegalWord 0xFFFF :=
  ⟨⟨rfl, rfl, rfl, rfl⟩, by decide, by decide, by unfold IllegalWord; decide⟩

/-- One illegal word for each family, and none of the words beside them. -/
theorem witness_IllegalWordsAreRefused :
    IllegalWord 0x0000 ∧ IllegalWord 0x01E0 ∧ IllegalWord 0x8ABF ∧ IllegalWord 0xE19F ∧ IllegalWord 0xF130 ∧
    ¬ IllegalWord 0x00E0 ∧ ¬ IllegalWord 0x8ABE ∧ ¬ IllegalWord 0xE19E ∧ ¬ IllegalWord 0xF133 := by
  unfold IllegalWord
  refine ⟨?_, ?_, ?_, ?_, ?_, ?_, ?_, ?_, ?_⟩ <;> decide

theorem witness_LatchedErrorEndsSession :
    { State.reset with fault := some .stackUnderflow }.fault = some .stackUnderflow := rfl

/-- The reset state, running. -/
def started : State := { State.reset with run := .running }

/-- A running core, an idle one and a faulted one, all at the frame's start. -/
theorem witness_FrameTickCountsDown :
    (started.host = [] ∧ started.phase = .tick ∧ started.config.frameRate ≠ 0 ∧ started.run = .running ∧ started.fault = none) ∧
    (State.reset.host = [] ∧ State.reset.phase = .tick ∧ State.reset.config.frameRate ≠ 0 ∧ State.reset.run = .idle ∧
      State.reset.fault = none) ∧
    ({ started with fault := some .stackUnderflow }.host = [] ∧ { started with fault := some .stackUnderflow }.phase = .tick ∧
      { started with fault := some .stackUnderflow }.fault ≠ none) := by decide

theorem witness_EveryCycleTakesOneSlot :
    (started.fault = none ∧ started.host = [] ∧ started.phase = .tick ∧ started.run = .running ∧
      step started = .next { started with phase := .batch 10 } ∧
      started.config.instrPerFrame = started.config.ips / started.config.frameRate) ∧
    (atCycle 0x200 [0xF0, 0x0A]).AtCycle 0 ∧
    step (atCycle 0x200 [0xF0, 0x0A]) = .next { atCycle 0x200 [0xF0, 0x0A] with phase := .batch 0 } :=
  ⟨⟨rfl, rfl, rfl, rfl, rfl, rfl⟩, ⟨rfl, rfl, rfl, rfl⟩, rfl⟩

/-- The end of a frame, with the stop signal at either level. -/
def frameEnd (level : Bool) : State := { started with phase := .batch 0, stop := level }

theorem witness_FrameEndPresents (level : Bool) :
    (frameEnd level).fault = none ∧ (frameEnd level).host = [] ∧ (frameEnd level).run = .running ∧
    (frameEnd level).phase = .batch 0 ∧ (frameEnd level).stop = level := ⟨rfl, rfl, rfl, rfl, rfl⟩

/-- A state whose host is about to load some bytes. -/
def loading (s : State) (bytes : List Byte) : State := { s with host := [.event (.loadProgram bytes)] }

/-- Lengths 3584 and 3585 in `Idle`, and a running core. -/
theorem witness_LoadProgramCopies (bytes : List Byte) :
    ((loading State.reset bytes).fault = none ∧ (loading State.reset bytes).phase ≠ .over ∧
      (loading State.reset bytes).host = .event (.loadProgram bytes) :: [] ∧ (loading State.reset bytes).Canonical ∧
      (loading State.reset bytes).run = .idle) ∧
    ((loading started bytes).fault = none ∧ (loading started bytes).phase ≠ .over ∧
      (loading started bytes).host = .event (.loadProgram bytes) :: [] ∧ (loading started bytes).run = .running) ∧
    (List.replicate 3584 (0 : Byte)).length ≤ 3584 ∧ 3584 < (List.replicate 3585 (0 : Byte)).length :=
  ⟨⟨rfl, nofun, rfl, rfl, rfl⟩, ⟨rfl, nofun, rfl, rfl⟩, by rw [List.length_replicate],
    by rw [List.length_replicate]; decide⟩

/-- A state whose host is about to start the core. -/
def starting (s : State) : State := { s with host := [.event .start] }

/-- The reset state under `FRAME_RATE = 0`. -/
def rateless : State := State.resetWith { defaultConfig with frameRate := 0 }

theorem witness_StartRunsTheCore :
    ((starting State.reset).fault = none ∧ (starting State.reset).phase ≠ .over ∧
      (starting State.reset).host = .event .start :: [] ∧ (starting State.reset).run = .idle ∧
      (starting State.reset).config.frameRate ≠ 0) ∧
    ((starting rateless).fault = none ∧ (starting rateless).phase ≠ .over ∧ (starting rateless).host = .event .start :: [] ∧
      (starting rateless).run = .idle ∧ (starting rateless).config.frameRate = 0) ∧
    ((starting started).fault = none ∧ (starting started).phase ≠ .over ∧ (starting started).host = .event .start :: [] ∧
      (starting started).run = .running) := by decide

theorem witness_SetKeyChangesOneKey :
    { State.reset with host := [.event (.setKey 15 true)] }.fault = none ∧
    { State.reset with host := [.event (.setKey 15 true)] }.phase ≠ .over ∧
    { State.reset with host := [.event (.setKey 15 true)] }.host = .event (.setKey 15 true) :: [] := by decide

theorem witness_StopEventSetsLevel :
    { State.reset with host := [.event (.setStop true)] }.fault = none ∧
    { State.reset with host := [.event (.setStop true)] }.phase ≠ .over ∧
    { State.reset with host := [.event (.setStop true)] }.host = .event (.setStop true) :: [] := by decide

/-- The default batch of ten slots, and a configuration whose `INSTR_PER_FRAME` is set to none. -/
theorem witness_BootReachesFirstCycle :
    defaultConfig.frameRate ≠ 0 ∧ (List.replicate 3584 (0 : Byte)).length ≤ 3584 ∧ defaultConfig.instrPerFrame = 9 + 1 ∧
    { defaultConfig with instrPerFrame := 0 }.frameRate ≠ 0 ∧ { defaultConfig with instrPerFrame := 0 }.instrPerFrame = 0 :=
  ⟨by decide, by rw [List.length_replicate], by decide, by decide, rfl⟩

theorem witness_ResetLeavesListedValues : State.reset = State.resetWith defaultConfig ∧ defaultConfig.fontData.length = 80 :=
  ⟨rfl, by decide⟩

/-- The last address and the first one past it. -/
theorem witness_MemWriteChangesSpan :
    State.reset.Canonical ∧ 1 ≤ [(7 : Byte)].length ∧ 4095 + [(7 : Byte)].length ≤ 4096 ∧
    4096 < 4096 + [(7 : Byte)].length := ⟨rfl, by decide, by decide, by decide⟩

theorem witness_MemReadReturnsSpan : (4096 + 0 ≤ 4096 ∧ 4095 + 1 ≤ 4096) ∧ (4096 < 4097 + 0 ∧ 4096 < 4095 + 2) := by decide

/-- A store at the end of memory, from a state whose memory lists bytes already. -/
def storing : State :=
  { ((atCycle 4094 [0xF0, 0x55]).setIndex 0x300).setV 0 7 with stack := [2, 4096] }

theorem witness_StepKeepsMemoryCanonical : storing.Canonical ∧ andThen (step storing) (fun t => t.mem != storing.mem) = true :=
  ⟨by unfold State.Canonical; decide, by decide⟩

theorem witness_StepKeepsRanges : storing.InRange ∧ andThen (step storing) (fun t => t.pc == 4096) = true := by
  refine ⟨⟨by decide, fun a ha => ?_⟩, by decide⟩
  have h : a = 2 ∨ a = 4096 := by simpa [storing] using ha
  rcases h with rfl | rfl <;> decide

/-- `BFFF` with `V0 = FF` reaches the highest `pc`. -/
theorem witness_StepKeepsRanges_highest :
    ((atCycle 4094 [0xBF, 0xFF]).setV 0 0xFF).InRange ∧
    andThen (step ((atCycle 4094 [0xBF, 0xFF]).setV 0 0xFF)) (fun t => t.pc == 0x10FE) = true :=
  ⟨⟨by decide, fun a ha => by cases ha⟩, by decide⟩

theorem witness_StepKeepsSession : (atCycle 0x200 [0xC0, 0xFF]).run = .running ∧
    andThen (step (atCycle 0x200 [0xC0, 0xFF])) (fun t => t.draws == 1) = true := by decide

theorem witness_ExecAlwaysAnswers : canRaise .cls = false ∧ canRaise (.ldKey 0) = false := by decide

theorem witness_RaisingChangesNothingElse : State.reset.fault = none ∧
    ∃ t, exec .ret State.reset = .next t ∧ t.fault ≠ none := ⟨rfl, _, rfl, by decide⟩

theorem witness_OnlyNamedInstructionsWrite :
    (∃ t, exec (.ldImm 0 1) State.reset = .next t) ∧ storesToMemory (.ldImm 0 1) = false ∧
    reachesDisplay (.ldImm 0 1) = false ∧ writesKeys (.ldImm 0 1) = false ∧ writesDt (.ldImm 0 1) = false ∧
    writesSt (.ldImm 0 1) = false ∧ reachesStack (.ldImm 0 1) = false ∧ mayWriteIndex (.ldImm 0 1) = false ∧
    mayWritePc (.ldImm 0 1) = false ∧ drawsByte (.ldImm 0 1) = false :=
  ⟨⟨_, rfl⟩, rfl, rfl, rfl, rfl, rfl, rfl, rfl, rfl, rfl⟩

/-- The instructions that reach a device without writing it (10_state.md R20, R29). -/
theorem test_readers_write_nothing :
    writesKeys (.skp 0) = false ∧ writesKeys (.sknp 0) = false ∧ writesDt (.ldFromDt 0) = false ∧
    writesSt (.ldFromDt 0) = false ∧ writesSt (.ldDt 0) = false ∧ writesDt (.ldSt 0) = false := by decide

theorem witness_FlagWrittenOnlyByNamed :
    (∃ t, exec (.addImm 14 1) State.reset = .next t) ∧ mayWriteFlag (.addImm 14 1) = false := ⟨⟨_, rfl⟩, rfl⟩

theorem witness_DevicesReachedOnlyByNamed :
    reachesDisplay (.ldKey 0) = false ∧ reachesKeypad (.drw 0 0 1) = false ∧ reachesTimers .cls = false := by decide

theorem witness_RetPopsThePc :
    (State.reset.push 0x206).stack = [] ++ [0x206] ∧ State.reset.stack = [] := ⟨rfl, rfl⟩

theorem witness_ReturnUndoesCall : (State.reset.push 0x202).stack = State.reset.stack ++ [0x202] := rfl

/-- The one hypothesis inside LogicClearsFlag, AddSetsCarry, SubtractSetsNoBorrow and ShiftsByOneBit: `x` is not the flag register. -/
theorem witness_flag_statements : (14 : Index16) ≠ 15 ∧ (0 : Index16) ≠ 15 := by decide

theorem witness_ShiftsByOneBit :
    (0x05 : Byte) = (if (withRegs [(1, 0x05)]).config.shiftSrc = .vy then (withRegs [(1, 0x05)]).v[(1 : Index16)]
      else (withRegs [(1, 0x05)]).v[(0 : Index16)]) := by decide

/-- The setting `Q_SHIFT_SRC = VX`. -/
def shiftingVx : State := { withRegs [(0, 0x08), (1, 0x05)] with config := { defaultConfig with shiftSrc := .vx } }

theorem witness_ShiftsByOneBit_vx :
    (0x08 : Byte) = (if shiftingVx.config.shiftSrc = .vy then shiftingVx.v[(1 : Index16)] else shiftingVx.v[(0 : Index16)]) := by
  decide

/-- `I = 4093` and `I = 4094`. -/
theorem witness_BcdStoresDigits :
    (withIndex 4093 []).Canonical ∧ (withIndex 4093 []).index.toNat + 3 ≤ 4096 ∧
    4096 < (withIndex 4094 []).index.toNat + 3 := ⟨rfl, by decide, by decide⟩

/-- `x = 15` with `I = 4080` and `I = 4081`. -/
theorem witness_BlockStore :
    (withIndex 4080 []).Canonical ∧ (withIndex 4080 []).index.toNat + ((15 : Index16).val + 1) ≤ 4096 ∧
    4096 < (withIndex 4081 []).index.toNat + ((15 : Index16).val + 1) := ⟨rfl, by decide, by decide⟩

theorem witness_BlockLoad :
    (withIndex 4080 []).index.toNat + ((15 : Index16).val + 1) ≤ 4096 ∧
    4096 < (withIndex 4081 []).index.toNat + ((15 : Index16).val + 1) := by decide

theorem witness_StoredWordIsFetched :
    ((withIndex 4094 []).setPc 4094).Canonical ∧ 1 ≤ (1 : Index16).val ∧
    ((withIndex 4094 []).setPc 4094).index = ((withIndex 4094 []).setPc 4094).pc ∧
    ((withIndex 4094 []).setPc 4094).index.toNat + ((1 : Index16).val + 1) ≤ 4096 := ⟨rfl, by decide, by decide, by decide⟩

/-- A sprite that ends at the end of memory, its origin past the display's edges, and one that passes the end of memory. -/
def sprited (o : Origin) : State := { withBytes 4095 [0x80] [(0, 65), (1, 33)] with config := { defaultConfig with origin := o } }

theorem witness_DrawTogglesCoveredPixels :
    [(0x80 : Byte)] = (List.range (1 : Nibble).toNat).map (fun j => (sprited .wrap).byteAt ((sprited .wrap).index.toNat + j)) ∧
    1 = (if (sprited .wrap).config.origin = .wrap then (sprited .wrap).v[(1 : Index16)].toNat % 32 else
      (sprited .wrap).v[(1 : Index16)].toNat) ∧
    1 = (if (sprited .wrap).config.origin = .wrap then (sprited .wrap).v[(0 : Index16)].toNat % 64 else
      (sprited .wrap).v[(0 : Index16)].toNat) ∧
    (sprited .wrap).index.toNat + (1 : Nibble).toNat ≤ 4096 ∧ 4096 < (sprited .wrap).index.toNat + (2 : Nibble).toNat := by decide

theorem witness_DrawTogglesCoveredPixels_clip :
    33 = (if (sprited .clip).config.origin = .wrap then (sprited .clip).v[(1 : Index16)].toNat % 32 else
      (sprited .clip).v[(1 : Index16)].toNat) ∧
    65 = (if (sprited .clip).config.origin = .wrap then (sprited .clip).v[(0 : Index16)].toNat % 64 else
      (sprited .clip).v[(0 : Index16)].toNat) := by decide

/-- A covered pixel that is set, and a sprite that covers none. -/
theorem witness_DrawTogglesCoveredPixels_collision :
    (spriteCovers [0x80] 1 1 1 1 = true ∧ (onePixel 1 1)[(1 : Fin 32)][(1 : Fin 64)] = true) ∧
    ∀ (r : Fin 32) (c : Fin 64), spriteCovers [] 1 1 r c = true → State.reset.fb[r][c] = false :=
  ⟨by decide, fun r c h => by simp [spriteCovers, byteCovers] at h⟩

theorem witness_DoubleDrawRestores :
    (0 : Index16) ≠ 15 ∧ (1 : Index16) ≠ 15 ∧ (withBytes 0x300 [0xFF] []).index.toNat + (1 : Nibble).toNat ≤ 4096 ∧
    [(0xFF : Byte)] = (List.range (1 : Nibble).toNat).map (fun j => (withBytes 0x300 [0xFF] []).byteAt (0x300 + j)) ∧
    0 = (if (withBytes 0x300 [0xFF] []).config.origin = .wrap then (withBytes 0x300 [0xFF] []).v[(1 : Index16)].toNat % 32
      else (withBytes 0x300 [0xFF] []).v[(1 : Index16)].toNat) ∧
    0 = (if (withBytes 0x300 [0xFF] []).config.origin = .wrap then (withBytes 0x300 [0xFF] []).v[(0 : Index16)].toNat % 64
      else (withBytes 0x300 [0xFF] []).v[(0 : Index16)].toNat) := by decide

/-- Every pixel clear: the hypothesis of the last clause. -/
theorem witness_DoubleDrawRestores_clear :
    ∀ (r : Fin 32) (c : Fin 64), spriteCovers [0xFF] 0 0 r c = true → (withBytes 0x300 [0xFF] []).fb[r][c] = false := by
  intro r c _
  simp [withBytes, withIndex, withRegs, State.writeBytes, State.setIndex, State.reset, State.resetWith]

/-- `V0 = 15` names a key, `V0 = 16` does not. -/
theorem witness_SkipOnKey :
    (withRegs [(0, 15)]).v[(0 : Index16)].toNat = (15 : Index16).val ∧
    15 < (withRegs [(0, 16)]).v[(0 : Index16)].toNat := by decide

theorem witness_KeyReadReportsLeastKey :
    (((State.reset.setKey 7 true).setKey 9 true).keys[(7 : Index16)] = true ∧
      ∀ j : Index16, j < 7 → ((State.reset.setKey 7 true).setKey 9 true).keys[j] = false) ∧
    ∀ k : Index16, State.reset.keys[k] = false := by decide

theorem witness_WaitingChangesNothing :
    (atCycle 4094 [0xFF, 0x0A]).AtCycle 0 ∧ (atCycle 4094 [0xFF, 0x0A]).pc.toNat ≤ 4094 ∧
    (0xFF0A : Word).toNat = 256 * ((atCycle 4094 [0xFF, 0x0A]).byteAt 4094).toNat +
      ((atCycle 4094 [0xFF, 0x0A]).byteAt (4094 + 1)).toNat ∧
    (0xFF0A : Word).toNat = 0xF00A + 256 * (15 : Index16).val ∧
    ∀ k : Index16, (atCycle 4094 [0xFF, 0x0A]).keys[k] = false :=
  ⟨⟨rfl, rfl, rfl, rfl⟩, by decide, by decide, by decide, by decide⟩

end Sys2Proof.Tests
end

section
/-! The bounds-checked span primitives of spec/20_memory.md. -/

namespace Sys2Proof.Machine

/-- Settles O19: inside the bounds the answer is `State.writeBytes`, whose reads inside and outside the span are known
(the read inside needs the canonical form); past them it is `boundsError`. -/
theorem memWriteChangesSpan : Obligations.MemWriteChangesSpan := by
  intro s a bytes canonical _
  constructor
  · intro inBounds
    refine ⟨s.writeBytes a bytes, State.memWrite_ok inBounds, ?inside, ?outside, rfl⟩
    case inside =>
      intro j hj
      exact State.byteAt_writeBytes_inside canonical a bytes inBounds hj
    case outside =>
      intro b hb
      exact State.byteAt_writeBytes_outside s a bytes hb
  · intro pastBounds
    exact ⟨max a memSize, State.memWrite_error pastBounds⟩

end Sys2Proof.Machine
end

section
/-! The step of a core whose session goes on, and the move it makes (spec/40_execution_cycle.md sections 2 and 4). -/

namespace Sys2Proof.Machine

/-! ## Whose move it is -/

/-- While no error is latched and the run has not ended, a step is the next move (R100, R101). -/
theorem step_eq_nextMove {s : State} (hf : s.fault = none) (hp : s.phase ≠ .over) : step s = nextMove s := by
  have he : s.ended = none := by
    unfold State.ended
    split
    case h_1 e _ hs => rw [hf] at hs; cases hs
    case h_2 _ ho => exact absurd ho hp
    case h_3 => rfl
  simp only [step, stepMove, he]

/-- The host's move comes first when its plan says so (R112). -/
theorem step_event {s : State} {e : HostEvent} {rest : List HostMove} (hf : s.fault = none) (hp : s.phase ≠ .over)
    (hh : s.host = .event e :: rest) : step s = hostEvent e { s with host := rest } := by
  rw [step_eq_nextMove hf hp, nextMove, hh]

/-- After a yield the step is the machine's own move, the plan shorter by the yield (R115; log entry 8). -/
theorem step_yield {s : State} {rest : List HostMove} (hf : s.fault = none) (hp : s.phase ≠ .over)
    (hh : s.host = .yield :: rest) : step s = machineMove { s with host := rest } := by
  rw [step_eq_nextMove hf hp, nextMove, hh]

/-- With a slot of the batch left a running core's own move is a cycle, which takes the slot (R110). -/
theorem machineMove_cycle {s : State} {left : Nat} (hr : s.run = .running) (hp : s.phase = .batch (left + 1)) :
    machineMove s = cycle { s with phase := .batch left } := by
  simp only [machineMove, hr, hp]

/-! ## One cycle -/

/-- A word is the big-endian join of two bytes when their values say so (20_memory.md R57). -/
theorem eq_wordOfBytes {w : Word} {high low : Byte} (h : w.toNat = 256 * high.toNat + low.toNat) :
    w = wordOfBytes high low := by
  apply BitVec.eq_of_toNat_eq
  rw [wordOfBytes_toNat, h, Nat.mul_comm]

/-- A cycle that fetches a legal word is `exec` of the decoded instruction past it (R102 to R104). -/
theorem cycle_eq_exec {s : State} {w : Word} {i : Instr} (hpc : s.pc.toNat ≤ 4094)
    (hw : w.toNat = 256 * (s.byteAt s.pc.toNat).toNat + (s.byteAt (s.pc.toNat + 1)).toNat)
    (hd : decodeWord w = .ok i) : cycle s = exec i s.advance := by
  have hfetch : s.fetch = .ok w := by rw [State.fetch_ok hpc, eq_wordOfBytes hw]
  simp only [cycle, hfetch, decodeExecute, hd]

/-- Settles O6: whether the plan is empty or begins with a yield, the step is a cycle, and the cycle is `exec`. -/
theorem stepRunsDecodedInstruction : Obligations.StepRunsDecodedInstruction := by
  rintro s left w i ⟨running, noFault, noHost, slot⟩ hpc hw hd
  refine ⟨?silent, fun rest => ?yield⟩
  case silent =>
    rw [step_cycle running noFault noHost slot]
    exact cycle_eq_exec hpc hw hd
  case yield =>
    have notOver : s.phase ≠ .over := by simp [slot]
    calc step { s with host := .yield :: rest }
        = machineMove { s with host := rest } := step_yield noFault notOver rfl
      _ = cycle { s with host := rest, phase := .batch left } := machineMove_cycle running slot
      _ = _ := cycle_eq_exec hpc hw hd

/-! ## The host's events -/

/-- Settles O15: the event is `State.setKey`, whose reads are known at every key. -/
theorem setKeyChangesOneKey : Obligations.SetKeyChangesOneKey := by
  intro s k b rest hf hp hh
  refine ⟨State.setKey { s with host := rest } k b, step_event hf hp hh, ?named, ?others, rfl⟩
  case named => rw [State.setKey_key, if_pos rfl]
  case others =>
    intro j hj
    rw [State.setKey_key, if_neg hj]

/-- Settles O59: the event writes the level of the signal. -/
theorem stopEventSetsLevel : Obligations.StopEventSetsLevel := by
  intro s level rest hf hp hh
  exact ⟨{ s with host := rest, stop := level }, step_event hf hp hh, rfl, rfl⟩

end Sys2Proof.Machine
end

section
/-! Noninterference: what surrounds the program, the devices (spec/20_memory.md R67) and the bookkeeping of the frame loop and
the host (spec/10_state.md R31, R32), replaced before an instruction or after it. -/

namespace Sys2Proof.Machine

/-- New contents for some of the components that surround the program; none leaves a component as it is. -/
structure Replacement where
  fb : Option Framebuffer := none
  keys : Option (Vector Bool 16) := none
  dt : Option Byte := none
  st : Option Byte := none
  run : Option RunState := none
  phase : Option Phase := none
  stop : Option Bool := none
  output : Option (Option FrameOutput) := none
  host : Option (List HostMove) := none

/-- The state with the given components replaced. -/
def Replacement.apply (p : Replacement) (s : State) : State :=
  { s with
    fb := p.fb.getD s.fb
    keys := p.keys.getD s.keys
    dt := p.dt.getD s.dt
    st := p.st.getD s.st
    run := p.run.getD s.run
    phase := p.phase.getD s.phase
    stop := p.stop.getD s.stop
    output := p.output.getD s.output
    host := p.host.getD s.host }

/-- A replacement of no device that the instruction reaches (20_memory.md R67). -/
structure Replacement.Unreached (p : Replacement) (i : Instr) : Prop where
  display : reachesDisplay i = true → p.fb = none
  keypad : reachesKeypad i = true → p.keys = none
  timers : reachesTimers i = true → p.dt = none ∧ p.st = none

variable (p : Replacement) (s : State)

/-! ## What a replacement leaves to read -/

@[simp] theorem Replacement.apply_base : (p.apply s).base = s.base := rfl
@[simp] theorem Replacement.apply_getV (x : Index16) : (p.apply s).getV x = s.getV x := rfl
@[simp] theorem Replacement.apply_top : (p.apply s).top = s.top := rfl
@[simp] theorem Replacement.apply_originRow (b : Byte) : (p.apply s).originRow b = s.originRow b := rfl
@[simp] theorem Replacement.apply_originColumn (b : Byte) : (p.apply s).originColumn b = s.originColumn b := rfl

@[simp] theorem Replacement.apply_bytesAt (a n : Nat) : (p.apply s).bytesAt a n = s.bytesAt a n := by
  induction n generalizing a with
  | zero => rfl
  | succ n ih => simp only [State.bytesAt, ih, State.byteAt_congr (s := s) (t := p.apply s) rfl rfl]

theorem Replacement.apply_fb (h : p.fb = none) : (p.apply s).fb = s.fb := by simp [Replacement.apply, h]

theorem Replacement.apply_keys (h : p.keys = none) : (p.apply s).keys = s.keys := by simp [Replacement.apply, h]

/-! ## What writes and outcomes make of a replacement -/

/-- A write of the framebuffer commutes with a replacement that spares it; likewise the three below. -/
theorem Replacement.apply_setFb (h : p.fb = none) (fb : Framebuffer) :
    (p.apply s).setFb fb = p.apply (s.setFb fb) := by simp [Replacement.apply, State.setFb, h]

theorem Replacement.apply_setKey (h : p.keys = none) (k : Index16) (b : Bool) :
    (p.apply s).setKey k b = p.apply (s.setKey k b) := by simp [Replacement.apply, State.setKey, h]

theorem Replacement.apply_setDt (h : p.dt = none) (b : Byte) :
    (p.apply s).setDt b = p.apply (s.setDt b) := by simp [Replacement.apply, State.setDt, h]

theorem Replacement.apply_setSt (h : p.st = none) (b : Byte) :
    (p.apply s).setSt b = p.apply (s.setSt b) := by simp [Replacement.apply, State.setSt, h]

@[simp] theorem raise_apply (e : Error) : raise e (p.apply s) = mapNext p.apply (raise e s) := rfl

@[simp] theorem skipIf_apply (c : Bool) : skipIf c (p.apply s) = mapNext p.apply (skipIf c s) := by
  cases c <;> rfl

/-- An outcome chosen by a condition commutes with a replacement when both of its branches do. -/
theorem ite_mapNext {c : Prop} [Decidable c] {a b a' b' : Result} {f : State → State} (ha : a' = mapNext f a)
    (hb : b' = mapNext f b) : (if c then a' else b') = mapNext f (if c then a else b) := by
  rw [ha, hb, apply_ite (mapNext f)]

/-! ## The instructions with more than one outcome -/

theorem execRet_apply : execRet (p.apply s) = mapNext p.apply (execRet s) := by
  unfold execRet
  rw [Replacement.apply_top]
  cases s.top with
  | none => rfl
  | some a => rfl

theorem execBcd_apply (x : Index16) : execBcd x (p.apply s) = mapNext p.apply (execBcd x s) := by
  rw [execBcd_eq, execBcd_eq]
  exact ite_mapNext rfl rfl

theorem execStore_apply (x : Index16) : execStore x (p.apply s) = mapNext p.apply (execStore x s) := by
  rw [execStore_eq, execStore_eq, State.stepIndex_eq, State.stepIndex_eq]
  exact ite_mapNext rfl rfl

theorem execLoad_apply (x : Index16) : execLoad x (p.apply s) = mapNext p.apply (execLoad x s) := by
  rw [execLoad_eq, execLoad_eq, Replacement.apply_bytesAt, State.stepIndex_eq, State.stepIndex_eq]
  exact ite_mapNext rfl rfl

variable {p}

theorem execDrw_apply (h : p.fb = none) (x y : Index16) (n : Nibble) :
    execDrw x y n (p.apply s) = mapNext p.apply (execDrw x y n s) := by
  simp only [execDrw_eq, Replacement.apply_base, Replacement.apply_bytesAt, Replacement.apply_getV,
    Replacement.apply_originRow, Replacement.apply_originColumn, Replacement.apply_fb p s h,
    Replacement.apply_setFb p s h]
  exact ite_mapNext rfl rfl

theorem skipOnKey_apply (h : p.keys = none) (x : Index16) (wanted : Bool) :
    skipOnKey x wanted (p.apply s) = mapNext p.apply (skipOnKey x wanted s) := by
  unfold skipOnKey
  rw [Replacement.apply_getV]
  cases keyIndex (s.getV x) with
  | none => exact raise_apply p s _
  | some k => simp only [State.getKey, Replacement.apply_keys p s h, skipIf_apply]

theorem execLdKey_apply (h : p.keys = none) (x : Index16) :
    execLdKey x (p.apply s) = mapNext p.apply (execLdKey x s) := by
  have sameKey : (p.apply s).leastKey = s.leastKey := by
    simp only [State.leastKey, State.getKey, Replacement.apply_keys p s h]
  unfold execLdKey
  rw [sameKey]
  cases s.leastKey with
  | none => rfl
  | some k => exact congrArg _ (Replacement.apply_setKey p (s.setV x _) h k false)

theorem execLdFromDt_apply (h : p.dt = none) (x : Index16) :
    execLdFromDt x (p.apply s) = mapNext p.apply (execLdFromDt x s) := by
  have sameDt : (p.apply s).dt = s.dt := by simp [Replacement.apply, h]
  rw [execLdFromDt, sameDt]
  rfl

/-! ## Every instruction -/

/-- An instruction does the same to the rest of the state whatever stands in the components it does not reach, and leaves those
as they are. -/
theorem exec_apply {i : Instr} (h : p.Unreached i) : exec i (p.apply s) = mapNext p.apply (exec i s) := by
  obtain ⟨display, keypad, timers⟩ := h
  cases i with
  | cls => exact congrArg _ (Replacement.apply_setFb p s (display rfl) blankFb)
  | drw x y n => exact execDrw_apply s (display rfl) x y n
  | skp x => exact skipOnKey_apply s (keypad rfl) x true
  | sknp x => exact skipOnKey_apply s (keypad rfl) x false
  | ldKey x => exact execLdKey_apply s (keypad rfl) x
  | ldFromDt x => exact execLdFromDt_apply s (timers rfl).1 x
  | ldDt x => exact congrArg _ (Replacement.apply_setDt p s (timers rfl).1 (s.getV x))
  | ldSt x => exact congrArg _ (Replacement.apply_setSt p s (timers rfl).2 (s.getV x))
  | ret => exact execRet_apply p s
  | bcd x => exact execBcd_apply p s x
  | store x => exact execStore_apply p s x
  | load x => exact execLoad_apply p s x
  | seImm | sneImm | seReg | sneReg => exact skipIf_apply p s _
  | jp | call | jpOff => rfl
  | ldImm | addImm | ldReg | rnd => rfl
  | orReg | andReg | xorReg | addReg | sub | subn | shr | shl => rfl
  | ldI | addI | ldFont => rfl

/-- Settles O28: the new contents of one device are a replacement of what the instruction does not reach. -/
theorem devicesReachedOnlyByNamed : Obligations.DevicesReachedOnlyByNamed := by
  intro i s
  refine ⟨fun unreached fb => ?display, fun unreached keys => ?keypad, fun unreached dt st => ?timers⟩
  case display =>
    exact exec_apply (p := { fb := some fb }) s
      ⟨fun reached => by simp [unreached] at reached, fun _ => rfl, fun _ => ⟨rfl, rfl⟩⟩
  case keypad =>
    exact exec_apply (p := { keys := some keys }) s
      ⟨fun _ => rfl, fun reached => by simp [unreached] at reached, fun _ => ⟨rfl, rfl⟩⟩
  case timers =>
    exact exec_apply (p := { dt := some dt, st := some st }) s
      ⟨fun _ => rfl, fun _ => rfl, fun reached => by simp [unreached] at reached⟩

/-- Settles O29: the bookkeeping is no device, so every instruction leaves all of it unreached. -/
theorem bookkeepingInvisibleToProgram : Obligations.BookkeepingInvisibleToProgram := by
  intro i s run phase stop output host
  exact exec_apply
    (p := { run := some run, phase := some phase, stop := some stop, output := some output, host := some host }) s
    ⟨fun _ => rfl, fun _ => rfl, fun _ => ⟨rfl, rfl⟩⟩

end Sys2Proof.Machine
end

section
/-! The fields and the rows of the opcode table (spec/30_encoding.md R81, R85), by the decoder's answers. -/

namespace Sys2Proof.Machine

open Laws.EncodeRow (row)

/-! ## The decoder's slices are the fields by division -/

theorem fieldX_eq_wordX (w : Word) : fieldX w = wordX w := Fin.ext (fieldX_val w)

theorem fieldNN_eq_wordLow (w : Word) : fieldNN w = wordLow w := by
  apply BitVec.eq_of_toNat_eq
  rw [fieldNN_toNat, wordLow, BitVec.toNat_ofNat]
  omega

theorem fieldNNN_eq_wordAddr (w : Word) : fieldNNN w = wordAddr w := by
  apply BitVec.eq_of_toNat_eq
  rw [fieldNNN_toNat, wordAddr, BitVec.toNat_ofNat]
  omega

/-! ## A word that decodes lies in its operation's row -/

theorem row_of_decodeFamily0 {w : Word} {i : Instr} (hop : (fieldOp w).toNat = 0x0) (h : decodeFamily0 w = .ok i) :
    w &&& (row i).1 = (row i).2 := by
  rcases decodeFamily0_cases w with ⟨key, hd⟩ | ⟨key, hd⟩ | ⟨-, hd⟩
  all_goals rw [hd] at h; cases h
  all_goals exact (row_fixed rfl (by decide) w).mpr ⟨hop, key⟩

theorem row_of_decodeFamily8 {w : Word} {i : Instr} (hop : (fieldOp w).toNat = 0x8) (h : decodeFamily8 w = .ok i) :
    w &&& (row i).1 = (row i).2 := by
  rcases decodeFamily8_cases w with ⟨key, hd⟩ | ⟨key, hd⟩ | ⟨key, hd⟩ | ⟨key, hd⟩ | ⟨key, hd⟩ | ⟨key, hd⟩ | ⟨key, hd⟩ |
    ⟨key, hd⟩ | ⟨key, hd⟩ | ⟨-, hd⟩
  all_goals rw [hd] at h; cases h
  all_goals exact (row_xyk rfl (by decide) w).mpr ⟨hop, key⟩

theorem row_of_decodeFamilyE {w : Word} {i : Instr} (hop : (fieldOp w).toNat = 0xE) (h : decodeFamilyE w = .ok i) :
    w &&& (row i).1 = (row i).2 := by
  rcases decodeFamilyE_cases w with ⟨key, hd⟩ | ⟨key, hd⟩ | ⟨-, hd⟩
  all_goals rw [hd] at h; cases h
  all_goals exact (row_xkk rfl (by decide) w).mpr ⟨hop, key⟩

theorem row_of_decodeFamilyF {w : Word} {i : Instr} (hop : (fieldOp w).toNat = 0xF) (h : decodeFamilyF w = .ok i) :
    w &&& (row i).1 = (row i).2 := by
  rcases decodeFamilyF_cases w with ⟨key, hd⟩ | ⟨key, hd⟩ | ⟨key, hd⟩ | ⟨key, hd⟩ | ⟨key, hd⟩ | ⟨key, hd⟩ | ⟨key, hd⟩ |
    ⟨key, hd⟩ | ⟨key, hd⟩ | ⟨-, hd⟩
  all_goals rw [hd] at h; cases h
  all_goals exact (row_xkk rfl (by decide) w).mpr ⟨hop, key⟩

/-- No word outside an operation's row decodes to the operation: the opcode, and in the ambiguous families the sub-key, are those
of the row. -/
theorem row_of_decodeWord {w : Word} {i : Instr} (h : decodeWord w = .ok i) : w &&& (row i).1 = (row i).2 := by
  rcases decodeWord_cases w with ⟨hop, hd⟩ | ⟨hop, hd⟩ | ⟨hop, hd⟩ | ⟨hop, hd⟩ | ⟨hop, hd⟩ | ⟨hop, hd⟩ | ⟨hop, hd⟩ |
    ⟨hop, hd⟩ | ⟨hop, hd⟩ | ⟨hop, hd⟩ | ⟨hop, hd⟩ | ⟨hop, hd⟩ | ⟨hop, hd⟩ | ⟨hop, hd⟩ | ⟨hop, hd⟩ | ⟨hop, hd⟩
  all_goals rw [hd] at h
  -- The ambiguous families, the branches of the opcodes 0xF, 0xE, 0x8 and 0x0.
  on_goal 16 => exact row_of_decodeFamilyF hop h
  on_goal 15 => exact row_of_decodeFamilyE hop h
  on_goal 9 => exact row_of_decodeFamily8 hop h
  on_goal 1 => exact row_of_decodeFamily0 hop h
  all_goals cases h; exact (row_op rfl w).mpr hop

/-- A row of R85 holds when its words decode to its operation; that no others do is `row_of_decodeWord`. -/
theorem rowDecodes_of_decodes {mask pattern : Word} {op : Word → Instr} (hrow : ∀ w, row (op w) = (mask, pattern))
    (hd : ∀ w, w &&& mask = pattern → decodeWord w = .ok (op w)) : RowDecodes mask pattern op := by
  intro w
  refine ⟨hd w, fun h => ?_⟩
  have inRow := row_of_decodeWord h
  rwa [hrow] at inRow

/-- A row of a family that is one operation: its words are those with the opcode. -/
theorem rowDecodes_of_opcode {k : Nat} {pattern : Word} {op : Word → Instr} (hk : pattern.toNat = k * 4096)
    (hrow : ∀ w, row (op w) = (0xF000#16, pattern)) (hd : ∀ w, (fieldOp w).toNat = k → decodeWord w = .ok (op w)) :
    RowDecodes 0xF000#16 pattern op :=
  rowDecodes_of_decodes hrow fun w hw => hd w ((row_op hk w).mp hw)

/-! ## The rows of the control transfers -/

theorem rowDecodes_ret : RowDecodes 0xFFFF#16 0x00EE#16 (fun _ => .ret) := by
  refine rowDecodes_of_decodes (fun _ => rfl) fun w hw => ?_
  obtain rfl : w = 0x00EE#16 := by rw [← hw, and_fixedMask]
  rfl

theorem rowDecodes_jp : RowDecodes 0xF000#16 0x1000#16 (fun w => .jp (wordAddr w)) :=
  rowDecodes_of_opcode (k := 0x1) rfl (fun _ => rfl) fun w hop => by
    simp only [decodeWord, hop, fieldNNN_eq_wordAddr]

theorem rowDecodes_call : RowDecodes 0xF000#16 0x2000#16 (fun w => .call (wordAddr w)) :=
  rowDecodes_of_opcode (k := 0x2) rfl (fun _ => rfl) fun w hop => by
    simp only [decodeWord, hop, fieldNNN_eq_wordAddr]

theorem rowDecodes_seImm : RowDecodes 0xF000#16 0x3000#16 (fun w => .seImm (wordX w) (wordLow w)) :=
  rowDecodes_of_opcode (k := 0x3) rfl (fun _ => rfl) fun w hop => by
    simp only [decodeWord, hop, fieldX_eq_wordX, fieldNN_eq_wordLow]

theorem rowDecodes_sneImm : RowDecodes 0xF000#16 0x4000#16 (fun w => .sneImm (wordX w) (wordLow w)) :=
  rowDecodes_of_opcode (k := 0x4) rfl (fun _ => rfl) fun w hop => by
    simp only [decodeWord, hop, fieldX_eq_wordX, fieldNN_eq_wordLow]

end Sys2Proof.Machine
end

section
/-! What the control transfers change and leave unchanged (spec/41_control_flow.md; spec/40_execution_cycle.md R116). -/

namespace Sys2Proof.Machine

/-! ## Frames -/

theorem Frame.refl (c : Changes) (s : State) : Frame c s s where
  regs _ _ := rfl
  index _ := rfl
  pc _ := rfl
  stack _ := rfl
  dt _ := rfl
  st _ := rfl
  fb _ := rfl
  keys _ := rfl
  draws _ := rfl
  bytes _ _ := rfl
  config := rfl
  run := rfl
  fault := rfl
  phase := rfl
  stop := rfl
  output := rfl
  host := rfl

theorem State.setPc_frame (s : State) (a : Word) : Frame { pc := true } s (s.setPc a) :=
  { Frame.refl { pc := true } s with pc := nofun }

theorem State.push_setPc_frame (s : State) (a b : Word) :
    Frame { pc := true, stack := true } s ((s.push a).setPc b) :=
  { Frame.refl { pc := true, stack := true } s with pc := nofun, stack := nofun }

theorem State.dropTop_setPc_frame (s : State) (a : Word) :
    Frame { pc := true, stack := true } s (s.dropTop.setPc a) :=
  { Frame.refl { pc := true, stack := true } s with pc := nofun, stack := nofun }

/-! ## The return, the jump and the call -/

/-- The address field is zero-extended (30_encoding.md R83). -/
@[simp] theorem address_toNat (nnn : Addr12) : (address nnn).toNat = nnn.toNat :=
  BitVec.toNat_setWidth_of_le (by decide)

/-- Settles O30: `execRet` on a stack with a top, and on an empty one. -/
theorem retPopsThePc : Obligations.RetPopsThePc := by
  refine ⟨rowDecodes_ret, ?pop, fun s empty => execRet_empty empty⟩
  case pop =>
    intro s rest a top
    have popped : s.dropTop.stack = rest := by simp [top]
    exact ⟨s.dropTop.setPc a, execRet_push top, rfl, popped, s.dropTop_setPc_frame a⟩

/-- Settles O31: the next state is `State.setPc` at the zero-extended field. -/
theorem jumpSetsThePc : Obligations.JumpSetsThePc :=
  ⟨rowDecodes_jp, fun s nnn => ⟨s.setPc (address nnn), rfl, address_toNat nnn, s.setPc_frame _⟩⟩

/-- Settles O32: the next state is `State.push` of the counter, then `State.setPc`. -/
theorem callPushesThePc : Obligations.CallPushesThePc :=
  ⟨rowDecodes_call, fun s nnn =>
    ⟨(s.push s.pc).setPc (address nnn), rfl, address_toNat nnn, rfl, s.push_setPc_frame _ _⟩⟩

/-! ## The skips on an immediate -/

theorem exec_seImm (x : Index16) (nn : Byte) (s : State) :
    exec (.seImm x nn) s = .next (s.setPc (if s.v[x].toNat = nn.toNat then s.pc + 2 else s.pc)) := by
  refine (skipIf_eq (s.getV x == nn) s).trans ?_
  simp only [State.getV, beq_iff_eq, BitVec.toNat_inj]

theorem exec_sneImm (x : Index16) (nn : Byte) (s : State) :
    exec (.sneImm x nn) s = .next (s.setPc (if s.v[x].toNat = nn.toNat then s.pc else s.pc + 2)) := by
  refine (skipIf_eq (s.getV x != nn) s).trans ?_
  simp only [State.getV, bne_iff_ne, ne_eq, ite_not, BitVec.toNat_inj]

/-- Settles O34: either skip is `State.setPc` to one of two counters, by the comparison. -/
theorem skipOnImmediate : Obligations.SkipOnImmediate := by
  refine ⟨rowDecodes_seImm, rowDecodes_sneImm, fun s x nn => ⟨?equal, ?differ⟩⟩
  case equal => exact ⟨_, exec_seImm x nn s, rfl, s.setPc_frame _⟩
  case differ => exact ⟨_, exec_sneImm x nn s, rfl, s.setPc_frame _⟩

end Sys2Proof.Machine
end

section
/-! The register loads of one immediate byte: `6xnn`, `7xnn` and `Cxnn` (spec/42_load_alu.md R151, R152, R162). -/

namespace Sys2Proof.Machine

/-! ## Their rows of the opcode table (spec/30_encoding.md R85) -/

theorem rowDecodes_ldImm : RowDecodes 0xF000#16 0x6000#16 (fun w => .ldImm (wordX w) (wordLow w)) :=
  rowDecodes_of_opcode (k := 0x6) rfl (fun _ => rfl) fun w hop => by
    simp only [decodeWord, hop, fieldX_eq_wordX, fieldNN_eq_wordLow]

theorem rowDecodes_addImm : RowDecodes 0xF000#16 0x7000#16 (fun w => .addImm (wordX w) (wordLow w)) :=
  rowDecodes_of_opcode (k := 0x7) rfl (fun _ => rfl) fun w hop => by
    simp only [decodeWord, hop, fieldX_eq_wordX, fieldNN_eq_wordLow]

theorem rowDecodes_rnd : RowDecodes 0xF000#16 0xC000#16 (fun w => .rnd (wordX w) (wordLow w)) :=
  rowDecodes_of_opcode (k := 0xC) rfl (fun _ => rfl) fun w hop => by
    simp only [decodeWord, hop, fieldX_eq_wordX, fieldNN_eq_wordLow]

/-! ## A write of one register -/

theorem State.setV_reg_same (s : State) (x : Index16) (b : Byte) : (s.setV x b).v[x] = b := by
  rw [State.setV_reg, if_pos rfl]

theorem State.setV_reg_of_ne (s : State) {x k : Index16} (hk : k ≠ x) (b : Byte) : (s.setV x b).v[k] = s.v[k] := by
  rw [State.setV_reg, if_neg hk]

theorem State.setV_frame (s : State) (x : Index16) (b : Byte) : Frame { regs := [x] } s (s.setV x b) :=
  { Frame.refl { regs := [x] } s with regs := fun _ hk => s.setV_reg_of_ne (List.ne_of_not_mem_cons hk) b }

theorem State.countDraw_setV_frame (s : State) (x : Index16) (b : Byte) :
    Frame { regs := [x], draws := true } s (s.countDraw.setV x b) :=
  { s.setV_frame x b with draws := nofun }

/-! ## The instructions -/

/-- Settles O37: the next state is `State.setV` of the byte. -/
theorem loadImmediate : Obligations.LoadImmediate :=
  ⟨rowDecodes_ldImm, fun s x nn => ⟨s.setV x nn, rfl, s.setV_reg_same x nn, s.setV_frame x nn⟩⟩

/-- Settles O38: the next state is `State.setV` of a sum of bytes, which wraps. -/
theorem addImmediateWraps : Obligations.AddImmediateWraps := by
  refine ⟨rowDecodes_addImm, fun s x nn => ⟨s.setV x (s.v[x] + nn), rfl, ?sum, s.setV_frame x _⟩⟩
  case sum => rw [State.setV_reg_same, BitVec.toNat_add]

/-- Settles O44: the next state is `State.setV` of the masked byte, the draw counted. -/
theorem randomIsMasked : Obligations.RandomIsMasked := by
  refine ⟨rowDecodes_rnd, fun s x nn =>
    ⟨s.countDraw.setV x (Config.freeByte s.draws &&& nn), rfl, ?bits, ?masked, rfl, s.countDraw_setV_frame x _⟩⟩
  case bits =>
    intro k
    rw [State.setV_reg_same]
    exact BitVec.getElem_and k.isLt
  case masked =>
    rw [State.setV_reg_same, BitVec.and_assoc, BitVec.and_not_self]
    exact BitVec.and_zero

end Sys2Proof.Machine
end

section
/-! The index register and memory instructions `Annn`, `Fx29` and `Fx33` (spec/43_index_memory.md R181, R184, R185). -/

namespace Sys2Proof.Machine

/-! ## Their rows of the opcode table (spec/30_encoding.md R85) -/

/-- A row of family 0xF: its words are those with the opcode 0xF and the row's sub-key. -/
theorem rowDecodes_of_keyF {key : Nat} {pattern : Word} {op : Word → Instr} (hp : pattern.toNat = 0xF * 4096 + key)
    (hkey : key < 256) (hrow : ∀ w, Laws.EncodeRow.row (op w) = (0xF0FF#16, pattern))
    (hd : ∀ w, (fieldNN w).toNat = key → decodeFamilyF w = .ok (op w)) : RowDecodes 0xF0FF#16 pattern op := by
  refine rowDecodes_of_decodes hrow fun w hw => ?_
  obtain ⟨hop, hnn⟩ := (row_xkk hp hkey w).mp hw
  simp only [decodeWord, hop, hd w hnn]

theorem rowDecodes_ldI : RowDecodes 0xF000#16 0xA000#16 (fun w => .ldI (wordAddr w)) :=
  rowDecodes_of_opcode (k := 0xA) rfl (fun _ => rfl) fun w hop => by
    simp only [decodeWord, hop, fieldNNN_eq_wordAddr]

theorem rowDecodes_ldFont : RowDecodes 0xF0FF#16 0xF029#16 (fun w => .ldFont (wordX w)) :=
  rowDecodes_of_keyF (key := 0x29) rfl (by decide) (fun _ => rfl) fun w hnn => by
    simp only [decodeFamilyF, hnn, fieldX_eq_wordX]

theorem rowDecodes_bcd : RowDecodes 0xF0FF#16 0xF033#16 (fun w => .bcd (wordX w)) :=
  rowDecodes_of_keyF (key := 0x33) rfl (by decide) (fun _ => rfl) fun w hnn => by
    simp only [decodeFamilyF, hnn, fieldX_eq_wordX]

/-! ## A write of the index register -/

theorem State.setIndex_frame (s : State) (a : Word) : Frame { index := true } s (s.setIndex a) :=
  { Frame.refl { index := true } s with index := nofun }

/-- Settles O45: the next state is `State.setIndex` of the zero-extended field. -/
theorem loadIndex : Obligations.LoadIndex :=
  ⟨rowDecodes_ldI, fun s nnn => ⟨s.setIndex (address nnn), rfl, address_toNat nnn, s.setIndex_frame _⟩⟩

/-- The last glyph starts at 0x09B, so the address is not reduced. -/
theorem glyphAddress_toNat (b : Byte) : (glyphAddress b).toNat = 0x050 + 5 * (b.toNat % 16) := by
  rw [glyphAddress, fontAddr, BitVec.toNat_ofNat]
  omega

/-- Settles O47: the next state is `State.setIndex` of the glyph's address, whatever memory holds. -/
theorem fontLookup : Obligations.FontLookup :=
  ⟨rowDecodes_ldFont, fun s x =>
    ⟨s.setIndex (glyphAddress s.v[x]), rfl, glyphAddress_toNat s.v[x], s.setIndex_frame _⟩⟩

/-! ## The decimal digits -/

theorem State.writeBytes_frame (s : State) (a : Nat) (bs : List Byte) :
    Frame { storeAt := a, storeLen := bs.length } s (s.writeBytes a bs) :=
  { Frame.refl { storeAt := a, storeLen := bs.length } s with
    bytes := fun _ outside => s.byteAt_writeBytes_outside a bs outside }

theorem digits_toNat (b : Byte) :
    (digits b)[0].toNat = b.toNat / 100 ∧ (digits b)[1].toNat = b.toNat / 10 % 10 ∧ (digits b)[2].toNat = b.toNat % 10 := by
  have hb : b.toNat < 256 := b.isLt
  simp only [digits, List.getElem_cons_zero, List.getElem_cons_succ, BitVec.toNat_ofNat]
  omega

/-- The read of a stored digit needs the canonical form, as any read inside a written span does. -/
theorem State.byteAt_writeBytes_digits {s : State} (canonical : s.Canonical) {a : Nat} (inBounds : a + 3 ≤ 4096) (b : Byte) :
    ((s.writeBytes a (digits b)).byteAt a).toNat = b.toNat / 100 ∧
    ((s.writeBytes a (digits b)).byteAt (a + 1)).toNat = b.toNat / 10 % 10 ∧
    ((s.writeBytes a (digits b)).byteAt (a + 2)).toNat = b.toNat % 10 := by
  obtain ⟨hundreds, tens, ones⟩ := digits_toNat b
  have written {j : Nat} (hj : j < 3) : (s.writeBytes a (digits b)).byteAt (a + j) = (digits b)[j]'hj :=
    State.byteAt_writeBytes_inside canonical a (digits b) inBounds hj
  refine ⟨?_, ?_, ?_⟩
  · exact (congrArg BitVec.toNat (written (j := 0) (by decide))).trans hundreds
  · exact (congrArg BitVec.toNat (written (j := 1) (by decide))).trans tens
  · exact (congrArg BitVec.toNat (written (j := 2) (by decide))).trans ones

theorem execBcd_inBounds {s : State} (h : s.index.toNat + 3 ≤ 4096) (x : Index16) :
    exec (.bcd x) s = .next (s.writeBytes s.index.toNat (digits s.v[x])) :=
  (execBcd_eq s x).trans (if_pos h)

theorem execBcd_pastEnd {s : State} (h : 4096 < s.index.toNat + 3) (x : Index16) :
    exec (.bcd x) s = raise (boundsError s.index.toNat) s :=
  (execBcd_eq s x).trans (if_neg (Nat.not_le.mpr h))

/-- Settles O48: `execBcd` writes the three digits when their span lies in memory, and raises when it does not. -/
theorem bcdStoresDigits : Obligations.BcdStoresDigits := by
  refine ⟨rowDecodes_bcd, fun s x => ⟨?stored, ?pastEnd⟩⟩
  case stored =>
    intro canonical inBounds
    obtain ⟨hundreds, tens, ones⟩ := State.byteAt_writeBytes_digits canonical inBounds s.v[x]
    exact ⟨s.writeBytes s.index.toNat (digits s.v[x]), execBcd_inBounds inBounds x, hundreds, tens, ones,
      s.writeBytes_frame s.index.toNat (digits s.v[x])⟩
  case pastEnd =>
    intro pastEnd
    exact ⟨max s.index.toNat memSize, execBcd_pastEnd pastEnd x⟩

end Sys2Proof.Machine
end

section
/-! The clear of the display, `00E0` (spec/44_display.md R201). -/

namespace Sys2Proof.Machine

theorem rowDecodes_cls : RowDecodes 0xFFFF#16 0x00E0#16 (fun _ => .cls) := by
  refine rowDecodes_of_decodes (fun _ => rfl) fun w hw => ?_
  obtain rfl : w = 0x00E0#16 := by rw [← hw, and_fixedMask]
  rfl

@[simp] theorem blankFb_pixel (r : Fin 32) (c : Fin 64) : blankFb[r][c] = false := by
  simp only [blankFb, Fin.getElem_fin, Vector.getElem_replicate]

theorem State.setFb_frame (s : State) (fb : Framebuffer) : Frame { fb := true } s (s.setFb fb) :=
  { Frame.refl { fb := true } s with fb := nofun }

/-- Settles O52: the next state is `State.setFb` of the blank display. -/
theorem clearDisplay : Obligations.ClearDisplay :=
  ⟨rowDecodes_cls, fun s => ⟨s.setFb blankFb, rfl, blankFb_pixel, s.setFb_frame blankFb⟩⟩

end Sys2Proof.Machine
end

section
/-! The keypad instructions `Ex9E`, `ExA1` and `Fx0A` (spec/45_keypad_timers.md R221, R222, R224). -/

namespace Sys2Proof.Machine

/-! ## Their rows of the opcode table (spec/30_encoding.md R85) -/

/-- A row of family 0xE: its words are those with the opcode 0xE and the row's sub-key. -/
theorem rowDecodes_of_keyE {key : Nat} {pattern : Word} {op : Word → Instr} (hp : pattern.toNat = 0xE * 4096 + key)
    (hkey : key < 256) (hrow : ∀ w, Laws.EncodeRow.row (op w) = (0xF0FF#16, pattern))
    (hd : ∀ w, (fieldNN w).toNat = key → decodeFamilyE w = .ok (op w)) : RowDecodes 0xF0FF#16 pattern op := by
  refine rowDecodes_of_decodes hrow fun w hw => ?_
  obtain ⟨hop, hnn⟩ := (row_xkk hp hkey w).mp hw
  simp only [decodeWord, hop, hd w hnn]

theorem rowDecodes_skp : RowDecodes 0xF0FF#16 0xE09E#16 (fun w => .skp (wordX w)) :=
  rowDecodes_of_keyE (key := 0x9E) rfl (by decide) (fun _ => rfl) fun w hnn => by
    simp only [decodeFamilyE, hnn, fieldX_eq_wordX]

theorem rowDecodes_sknp : RowDecodes 0xF0FF#16 0xE0A1#16 (fun w => .sknp (wordX w)) :=
  rowDecodes_of_keyE (key := 0xA1) rfl (by decide) (fun _ => rfl) fun w hnn => by
    simp only [decodeFamilyE, hnn, fieldX_eq_wordX]

theorem rowDecodes_ldKey : RowDecodes 0xF0FF#16 0xF00A#16 (fun w => .ldKey (wordX w)) :=
  rowDecodes_of_keyF (key := 0x0A) rfl (by decide) (fun _ => rfl) fun w hnn => by
    simp only [decodeFamilyF, hnn, fieldX_eq_wordX]

/-! ## The skips on a key -/

theorem exec_skp_valid {s : State} {x k : Index16} (h : s.v[x].toNat = k.val) :
    exec (.skp x) s = .next (s.setPc (if s.keys[k] = true then s.pc + 2 else s.pc)) :=
  skipOnKey_valid h true

theorem exec_sknp_valid {s : State} {x k : Index16} (h : s.v[x].toNat = k.val) :
    exec (.sknp x) s = .next (s.setPc (if s.keys[k] = true then s.pc else s.pc + 2)) := by
  refine (skipOnKey_valid h false).trans ?_
  simp only [← Bool.not_eq_true, ite_not]

/-- Settles O55: with a key's index in the register either skip is `State.setPc` to one of two counters, by the key's state; above
15 it raises the error. -/
theorem skipOnKeyState : Obligations.SkipOnKey := by
  refine ⟨rowDecodes_skp, rowDecodes_sknp, fun s x => ⟨fun k hk => ⟨?pressed, ?released⟩, fun above => ?invalid⟩⟩
  case pressed => exact ⟨_, exec_skp_valid hk, rfl, s.setPc_frame _⟩
  case released => exact ⟨_, exec_sknp_valid hk, rfl, s.setPc_frame _⟩
  case invalid => exact ⟨⟨s.v[x], skipOnKey_invalid above true⟩, ⟨s.v[x], skipOnKey_invalid above false⟩⟩

/-! ## The read of a key -/

/-- The state after `Fx0A` has found a key: its index in the register, the key released (R224). -/
def State.reportKey (s : State) (x k : Index16) : State := (s.setV x (BitVec.ofNat 8 k.val)).setKey k false

/-- An index of a key fits a byte, so it is reported unreduced. -/
theorem State.reportKey_reg_toNat (s : State) (x k : Index16) : (s.reportKey x k).v[x].toNat = k.val := by
  have fits : k.val < 2 ^ 8 := by omega
  rw [State.reportKey, State.setKey_v, State.setV_reg_same, BitVec.toNat_ofNat, Nat.mod_eq_of_lt fits]

theorem State.reportKey_key (s : State) (x k j : Index16) :
    (s.reportKey x k).keys[j] = if j = k then false else s.keys[j] := by
  rw [State.reportKey, State.setKey_key, State.setV_keys]

theorem State.reportKey_frame (s : State) (x k : Index16) :
    Frame { regs := [x], keys := true } s (s.reportKey x k) :=
  { s.setV_frame x (BitVec.ofNat 8 k.val) with keys := nofun }

theorem exec_ldKey_some {s : State} {k : Index16} (h : s.leastKey = some k) (x : Index16) :
    exec (.ldKey x) s = .next (s.reportKey x k) := by
  change execLdKey x s = _
  rw [execLdKey, h]
  rfl

theorem exec_ldKey_none {s : State} (h : s.leastKey = none) (x : Index16) : exec (.ldKey x) s = .next s.rewind := by
  change execLdKey x s = _
  rw [execLdKey, h]

/-- Settles O56: the scan finds the least pressed key, which is reported and released, or it finds none and `pc` is rewound. -/
theorem keyReadReportsLeastKey : Obligations.KeyReadReportsLeastKey := by
  refine ⟨rowDecodes_ldKey, fun s x => ⟨?reported, ?waiting⟩⟩
  case reported =>
    intro k pressed least
    refine ⟨s.reportKey x k, exec_ldKey_some (State.leastKey_some.mpr ⟨pressed, least⟩) x, s.reportKey_reg_toNat x k,
      ?released, ?others, s.reportKey_frame x k⟩
    case released => rw [State.reportKey_key, if_pos rfl]
    case others =>
      intro j hj
      rw [State.reportKey_key, if_neg hj]
  case waiting =>
    intro nonePressed
    exact ⟨s.rewind, exec_ldKey_none (State.leastKey_none.mpr nonePressed) x, rfl, s.setPc_frame (s.pc - 2)⟩

end Sys2Proof.Machine
end

section
/-! The decoder and the encoder against each other and against the table of opcodes (spec/30_encoding.md sections 3, 4 and 6). -/

namespace Sys2Proof.Machine

/-! ## A decoded instruction's word decodes to it -/

theorem fieldX_wordNNN_of_agree {nnn : Addr12} {x : Index16} (agree : jpOffFieldsAgree nnn x = true) (op : Nibble) :
    fieldX (wordNNN op nnn) = x := by
  have slice : x.val = nnn.toNat / 256 := beq_iff_eq.mp agree
  apply Fin.ext
  rw [fieldX_val, wordNNN_toNat]
  omega

/-- Settles O1: by the format of the word, whose fields are what it was put together from; in format NNN the `x` of `Bnnn` is one of
the digits of its `nnn`. -/
theorem encodedInstructionDecodes : Obligations.EncodedInstructionDecodes := by
  intro i wf
  cases i with
  | cls | ret => rfl
  | jp nnn | call nnn | ldI nnn => simp [encode, decodeWord]
  | jpOff nnn x => simp [encode, decodeWord, fieldX_wordNNN_of_agree wf]
  | seImm x nn | sneImm x nn | ldImm x nn | addImm x nn | rnd x nn => simp [encode, decodeWord]
  | seReg x y | sneReg x y | drw x y n => simp [encode, decodeWord]
  | ldReg x y | orReg x y | andReg x y | xorReg x y | addReg x y | sub x y | shr x y | subn x y | shl x y =>
    simp [encode, decodeWord, decodeFamily8]
  | skp x | sknp x => simp [encode, decodeWord, decodeFamilyE]
  | ldFromDt x | ldKey x | ldDt x | ldSt x | addI x | ldFont x | bcd x | store x | load x =>
    simp [encode, decodeWord, decodeFamilyF]

/-! ## A word is put together from its own fields -/

theorem wordNNN_eq_of_fields {w : Word} {op : Nibble} (hop : (fieldOp w).toNat = op.toNat) :
    wordNNN op (fieldNNN w) = w := by
  apply BitVec.eq_of_toNat_eq
  rw [wordNNN_toNat, ← hop, fieldOp_toNat, fieldNNN_toNat]
  omega

theorem wordXNN_eq_of_fields {w : Word} {op : Nibble} {nn : Byte} (hop : (fieldOp w).toNat = op.toNat)
    (hnn : (fieldNN w).toNat = nn.toNat) : wordXNN op (fieldX w) nn = w := by
  apply BitVec.eq_of_toNat_eq
  rw [wordXNN_toNat, ← hop, ← hnn, fieldOp_toNat, fieldX_val, fieldNN_toNat]
  omega

theorem wordXYN_eq_of_fields {w : Word} {op n : Nibble} (hop : (fieldOp w).toNat = op.toNat)
    (hn : (fieldN w).toNat = n.toNat) : wordXYN op (fieldX w) (fieldY w) n = w := by
  apply BitVec.eq_of_toNat_eq
  rw [wordXYN_toNat, ← hop, ← hn, fieldOp_toNat, fieldX_val, fieldY_val, fieldN_toNat]
  omega

theorem toNat_and_lowNibbleMask (w : Word) : (w &&& 0xFFF0#16).toNat = w.toNat / 16 * 16 := by
  have h : w &&& 0xFFF0#16 = (w >>> 4) <<< 4 := by
    ext i hi
    interval_cases i <;> simp
  have := w.isLt
  rw [h, BitVec.toNat_shiftLeft, BitVec.toNat_ushiftRight, Nat.shiftRight_eq_div_pow, Nat.shiftLeft_eq]
  omega

/-- The encoder leaves the ignored nibble zero (30_encoding.md R92). -/
theorem wordXYN_zero_eq_of_fields {w : Word} {op : Nibble} (hop : (fieldOp w).toNat = op.toNat) :
    wordXYN op (fieldX w) (fieldY w) 0#4 = w &&& 0xFFF0#16 := by
  apply BitVec.eq_of_toNat_eq
  rw [wordXYN_toNat, ← hop, fieldOp_toNat, fieldX_val, fieldY_val, toNat_and_lowNibbleMask, BitVec.toNat_ofNat]
  omega

/-! ## A decoded word is its instruction's word -/

theorem encode_of_decodeFamily0 {w : Word} {i : Instr} (hop : (fieldOp w).toNat = 0x0) (h : decodeFamily0 w = .ok i) :
    i.wf = true ∧ encode i = w := by
  have inRow := row_of_decodeFamily0 hop h
  rcases decodeFamily0_cases w with ⟨-, hd⟩ | ⟨-, hd⟩ | ⟨-, hd⟩
  all_goals rw [hd] at h; cases h
  all_goals exact ⟨rfl, inRow.symm.trans (and_fixedMask w)⟩

theorem encode_of_decodeFamily8 {w : Word} {i : Instr} (hop : (fieldOp w).toNat = 0x8) (h : decodeFamily8 w = .ok i) :
    i.wf = true ∧ encode i = w := by
  rcases decodeFamily8_cases w with ⟨key, hd⟩ | ⟨key, hd⟩ | ⟨key, hd⟩ | ⟨key, hd⟩ | ⟨key, hd⟩ | ⟨key, hd⟩ | ⟨key, hd⟩ |
    ⟨key, hd⟩ | ⟨key, hd⟩ | ⟨-, hd⟩
  all_goals rw [hd] at h; cases h
  all_goals exact ⟨rfl, wordXYN_eq_of_fields hop key⟩

theorem encode_of_decodeFamilyE {w : Word} {i : Instr} (hop : (fieldOp w).toNat = 0xE) (h : decodeFamilyE w = .ok i) :
    i.wf = true ∧ encode i = w := by
  rcases decodeFamilyE_cases w with ⟨key, hd⟩ | ⟨key, hd⟩ | ⟨-, hd⟩
  all_goals rw [hd] at h; cases h
  all_goals exact ⟨rfl, wordXNN_eq_of_fields hop key⟩

theorem encode_of_decodeFamilyF {w : Word} {i : Instr} (hop : (fieldOp w).toNat = 0xF) (h : decodeFamilyF w = .ok i) :
    i.wf = true ∧ encode i = w := by
  rcases decodeFamilyF_cases w with ⟨key, hd⟩ | ⟨key, hd⟩ | ⟨key, hd⟩ | ⟨key, hd⟩ | ⟨key, hd⟩ | ⟨key, hd⟩ | ⟨key, hd⟩ |
    ⟨key, hd⟩ | ⟨key, hd⟩ | ⟨-, hd⟩
  all_goals rw [hd] at h; cases h
  all_goals exact ⟨rfl, wordXNN_eq_of_fields hop key⟩

/-- `Bnnn` keeps one digit twice (30_encoding.md R81). -/
theorem jpOffFieldsAgree_fields (w : Word) : jpOffFieldsAgree (fieldNNN w) (fieldX w) = true := by
  rw [jpOffFieldsAgree, beq_iff_eq, fieldX_val, fieldNNN_toNat]
  omega

/-- Settles O2: by the opcode, and in the ambiguous families the sub-key; in families 0x5 and 0x9 the encoder's low nibble is zero. -/
theorem decodedWordEncodes : Obligations.DecodedWordEncodes := by
  intro w i h
  rw [← fieldOp_toNat]
  rcases decodeWord_cases w with ⟨hop, hd⟩ | ⟨hop, hd⟩ | ⟨hop, hd⟩ | ⟨hop, hd⟩ | ⟨hop, hd⟩ | ⟨hop, hd⟩ | ⟨hop, hd⟩ |
    ⟨hop, hd⟩ | ⟨hop, hd⟩ | ⟨hop, hd⟩ | ⟨hop, hd⟩ | ⟨hop, hd⟩ | ⟨hop, hd⟩ | ⟨hop, hd⟩ | ⟨hop, hd⟩ | ⟨hop, hd⟩
  all_goals rw [hd] at h
  all_goals rw [hop]
  -- One bullet an opcode, in order.
  · exact encode_of_decodeFamily0 hop h
  · cases h; exact ⟨rfl, wordNNN_eq_of_fields hop⟩
  · cases h; exact ⟨rfl, wordNNN_eq_of_fields hop⟩
  · cases h; exact ⟨rfl, wordXNN_eq_of_fields hop rfl⟩
  · cases h; exact ⟨rfl, wordXNN_eq_of_fields hop rfl⟩
  · cases h; exact ⟨rfl, wordXYN_zero_eq_of_fields hop⟩
  · cases h; exact ⟨rfl, wordXNN_eq_of_fields hop rfl⟩
  · cases h; exact ⟨rfl, wordXNN_eq_of_fields hop rfl⟩
  · exact encode_of_decodeFamily8 hop h
  · cases h; exact ⟨rfl, wordXYN_zero_eq_of_fields hop⟩
  · cases h; exact ⟨rfl, wordNNN_eq_of_fields hop⟩
  · cases h; exact ⟨jpOffFieldsAgree_fields w, wordNNN_eq_of_fields hop⟩
  · cases h; exact ⟨rfl, wordXNN_eq_of_fields hop rfl⟩
  · cases h; exact ⟨rfl, wordXYN_eq_of_fields hop rfl⟩
  · exact encode_of_decodeFamilyE hop h
  · exact encode_of_decodeFamilyF hop h

/-! ## Every word is an instruction's or illegal -/

/-- The decoder's two answers to a word (30_encoding.md R84, R86). -/
def LegalOrRefused (w : Word) : Prop :=
  (¬ IllegalWord w ∧ ∃ i, decodeWord w = .ok i) ∨ (IllegalWord w ∧ decodeWord w = .error (.unsupportedOpcode w))

/-- The list of R86 by the decoder's own slices. -/
theorem illegalWord_iff (w : Word) : IllegalWord w ↔
    ((fieldOp w).toNat = 0x0 ∧ (fieldNNN w).toNat ∉ [0x0E0, 0x0EE]) ∨
    ((fieldOp w).toNat = 0x8 ∧ (fieldN w).toNat ∉ [0x0, 0x1, 0x2, 0x3, 0x4, 0x5, 0x6, 0x7, 0xE]) ∨
    ((fieldOp w).toNat = 0xE ∧ (fieldNN w).toNat ∉ [0x9E, 0xA1]) ∨
    ((fieldOp w).toNat = 0xF ∧ (fieldNN w).toNat ∉ [0x07, 0x0A, 0x15, 0x18, 0x1E, 0x29, 0x33, 0x55, 0x65]) := by
  have otherKeys : ∀ n < 16, n ∈ [0x8, 0x9, 0xA, 0xB, 0xC, 0xD, 0xF] ↔
      n ∉ [0x0, 0x1, 0x2, 0x3, 0x4, 0x5, 0x6, 0x7, 0xE] := by decide
  rw [IllegalWord, otherKeys _ (Nat.mod_lt _ (by decide)), fieldOp_toNat, fieldNNN_toNat, fieldN_toNat, fieldNN_toNat]

/-- In an ambiguous family the sub-key decides. -/
theorem decodeWord_legal_or_refused (w : Word) : LegalOrRefused w := by
  rw [LegalOrRefused, illegalWord_iff]
  rcases decodeWord_cases w with ⟨hop, hd⟩ | ⟨hop, hd⟩ | ⟨hop, hd⟩ | ⟨hop, hd⟩ | ⟨hop, hd⟩ | ⟨hop, hd⟩ | ⟨hop, hd⟩ |
    ⟨hop, hd⟩ | ⟨hop, hd⟩ | ⟨hop, hd⟩ | ⟨hop, hd⟩ | ⟨hop, hd⟩ | ⟨hop, hd⟩ | ⟨hop, hd⟩ | ⟨hop, hd⟩ | ⟨hop, hd⟩
  all_goals rw [hop, hd]
  -- The ambiguous families, the branches of the opcodes 0xF, 0xE, 0x8 and 0x0.
  on_goal 16 => rcases decodeFamilyF_cases w with h | h | h | h | h | h | h | h | h | h <;> simp [h]
  on_goal 15 => rcases decodeFamilyE_cases w with h | h | h <;> simp [h]
  on_goal 9 => rcases decodeFamily8_cases w with h | h | h | h | h | h | h | h | h | h <;> simp [h]
  on_goal 1 => rcases decodeFamily0_cases w with h | h | h <;> simp [h]
  all_goals simp

/-- Settles O4: the decoder's two answers exclude each other. -/
theorem illegalWordsAreRefused : Obligations.IllegalWordsAreRefused := by
  intro w
  rcases decodeWord_legal_or_refused w with ⟨legal, i, hd⟩ | ⟨illegal, hd⟩
  · simp [legal, hd]
  · simp [illegal, hd]

/-- Settles O5: the decoder evaluated at each word. -/
theorem specWordsDecode : Obligations.SpecWordsDecode :=
  ⟨rfl, rfl, rfl, rfl, rfl, rfl, rfl, rfl, rfl, rfl, rfl, rfl⟩

/-! ## The rows of the opcode table (R85) -/

theorem fieldY_eq_wordY (w : Word) : fieldY w = wordY w := Fin.ext (fieldY_val w)

theorem fieldN_eq_wordN (w : Word) : fieldN w = wordN w := by
  apply BitVec.eq_of_toNat_eq
  rw [fieldN_toNat, wordN, BitVec.toNat_ofNat]
  omega

theorem rowDecodes_seReg : RowDecodes 0xF000#16 0x5000#16 (fun w => .seReg (wordX w) (wordY w)) :=
  rowDecodes_of_opcode (k := 0x5) rfl (fun _ => rfl) fun w hop => by
    simp only [decodeWord, hop, fieldX_eq_wordX, fieldY_eq_wordY]

theorem rowDecodes_sneReg : RowDecodes 0xF000#16 0x9000#16 (fun w => .sneReg (wordX w) (wordY w)) :=
  rowDecodes_of_opcode (k := 0x9) rfl (fun _ => rfl) fun w hop => by
    simp only [decodeWord, hop, fieldX_eq_wordX, fieldY_eq_wordY]

theorem rowDecodes_jpOff : RowDecodes 0xF000#16 0xB000#16 (fun w => .jpOff (wordAddr w) (wordX w)) :=
  rowDecodes_of_opcode (k := 0xB) rfl (fun _ => rfl) fun w hop => by
    simp only [decodeWord, hop, fieldNNN_eq_wordAddr, fieldX_eq_wordX]

theorem rowDecodes_drw : RowDecodes 0xF000#16 0xD000#16 (fun w => .drw (wordX w) (wordY w) (wordN w)) :=
  rowDecodes_of_opcode (k := 0xD) rfl (fun _ => rfl) fun w hop => by
    simp only [decodeWord, hop, fieldX_eq_wordX, fieldY_eq_wordY, fieldN_eq_wordN]

/-- A row of family 0x8: its words are those with the opcode 0x8 and the row's sub-key; the row's operation is `op`. -/
theorem rowDecodes_of_key8 {key : Nat} {pattern : Word} {op : Index16 → Index16 → Instr}
    (hp : pattern.toNat = 0x8 * 4096 + key) (hkey : key < 16)
    (hrow : ∀ x y, Laws.EncodeRow.row (op x y) = (0xF00F#16, pattern))
    (hd : ∀ w, (fieldN w).toNat = key → decodeFamily8 w = .ok (op (fieldX w) (fieldY w))) :
    RowDecodes 0xF00F#16 pattern (fun w => op (wordX w) (wordY w)) := by
  refine rowDecodes_of_decodes (fun w => hrow _ _) fun w hw => ?_
  obtain ⟨hop, hn⟩ := (row_xyk hp hkey w).mp hw
  simp only [decodeWord, hop, hd w hn, fieldX_eq_wordX, fieldY_eq_wordY]

theorem rowDecodes_ldReg : RowDecodes 0xF00F#16 0x8000#16 (fun w => .ldReg (wordX w) (wordY w)) :=
  rowDecodes_of_key8 (key := 0x0) rfl (by decide) (fun _ _ => rfl) fun w hn => by simp only [decodeFamily8, hn]

theorem rowDecodes_orReg : RowDecodes 0xF00F#16 0x8001#16 (fun w => .orReg (wordX w) (wordY w)) :=
  rowDecodes_of_key8 (key := 0x1) rfl (by decide) (fun _ _ => rfl) fun w hn => by simp only [decodeFamily8, hn]

theorem rowDecodes_andReg : RowDecodes 0xF00F#16 0x8002#16 (fun w => .andReg (wordX w) (wordY w)) :=
  rowDecodes_of_key8 (key := 0x2) rfl (by decide) (fun _ _ => rfl) fun w hn => by simp only [decodeFamily8, hn]

theorem rowDecodes_xorReg : RowDecodes 0xF00F#16 0x8003#16 (fun w => .xorReg (wordX w) (wordY w)) :=
  rowDecodes_of_key8 (key := 0x3) rfl (by decide) (fun _ _ => rfl) fun w hn => by simp only [decodeFamily8, hn]

theorem rowDecodes_addReg : RowDecodes 0xF00F#16 0x8004#16 (fun w => .addReg (wordX w) (wordY w)) :=
  rowDecodes_of_key8 (key := 0x4) rfl (by decide) (fun _ _ => rfl) fun w hn => by simp only [decodeFamily8, hn]

theorem rowDecodes_sub : RowDecodes 0xF00F#16 0x8005#16 (fun w => .sub (wordX w) (wordY w)) :=
  rowDecodes_of_key8 (key := 0x5) rfl (by decide) (fun _ _ => rfl) fun w hn => by simp only [decodeFamily8, hn]

theorem rowDecodes_shr : RowDecodes 0xF00F#16 0x8006#16 (fun w => .shr (wordX w) (wordY w)) :=
  rowDecodes_of_key8 (key := 0x6) rfl (by decide) (fun _ _ => rfl) fun w hn => by simp only [decodeFamily8, hn]

theorem rowDecodes_subn : RowDecodes 0xF00F#16 0x8007#16 (fun w => .subn (wordX w) (wordY w)) :=
  rowDecodes_of_key8 (key := 0x7) rfl (by decide) (fun _ _ => rfl) fun w hn => by simp only [decodeFamily8, hn]

theorem rowDecodes_shl : RowDecodes 0xF00F#16 0x800E#16 (fun w => .shl (wordX w) (wordY w)) :=
  rowDecodes_of_key8 (key := 0xE) rfl (by decide) (fun _ _ => rfl) fun w hn => by simp only [decodeFamily8, hn]

theorem rowDecodes_ldFromDt : RowDecodes 0xF0FF#16 0xF007#16 (fun w => .ldFromDt (wordX w)) :=
  rowDecodes_of_keyF (key := 0x07) rfl (by decide) (fun _ => rfl) fun w hnn => by
    simp only [decodeFamilyF, hnn, fieldX_eq_wordX]

theorem rowDecodes_ldDt : RowDecodes 0xF0FF#16 0xF015#16 (fun w => .ldDt (wordX w)) :=
  rowDecodes_of_keyF (key := 0x15) rfl (by decide) (fun _ => rfl) fun w hnn => by
    simp only [decodeFamilyF, hnn, fieldX_eq_wordX]

theorem rowDecodes_ldSt : RowDecodes 0xF0FF#16 0xF018#16 (fun w => .ldSt (wordX w)) :=
  rowDecodes_of_keyF (key := 0x18) rfl (by decide) (fun _ => rfl) fun w hnn => by
    simp only [decodeFamilyF, hnn, fieldX_eq_wordX]

theorem rowDecodes_addI : RowDecodes 0xF0FF#16 0xF01E#16 (fun w => .addI (wordX w)) :=
  rowDecodes_of_keyF (key := 0x1E) rfl (by decide) (fun _ => rfl) fun w hnn => by
    simp only [decodeFamilyF, hnn, fieldX_eq_wordX]

theorem rowDecodes_store : RowDecodes 0xF0FF#16 0xF055#16 (fun w => .store (wordX w)) :=
  rowDecodes_of_keyF (key := 0x55) rfl (by decide) (fun _ => rfl) fun w hnn => by
    simp only [decodeFamilyF, hnn, fieldX_eq_wordX]

theorem rowDecodes_load : RowDecodes 0xF0FF#16 0xF065#16 (fun w => .load (wordX w)) :=
  rowDecodes_of_keyF (key := 0x65) rfl (by decide) (fun _ => rfl) fun w hnn => by
    simp only [decodeFamilyF, hnn, fieldX_eq_wordX]

/-- Settles O3: one lemma a row, in the table's order. -/
theorem tableRowsDecode : Obligations.TableRowsDecode :=
  ⟨rowDecodes_cls, rowDecodes_ret, rowDecodes_jp, rowDecodes_call, rowDecodes_seImm, rowDecodes_sneImm, rowDecodes_seReg,
    rowDecodes_ldImm, rowDecodes_addImm, rowDecodes_ldReg, rowDecodes_orReg, rowDecodes_andReg, rowDecodes_xorReg,
    rowDecodes_addReg, rowDecodes_sub, rowDecodes_shr, rowDecodes_subn, rowDecodes_shl, rowDecodes_sneReg, rowDecodes_ldI,
    rowDecodes_jpOff, rowDecodes_rnd, rowDecodes_drw, rowDecodes_skp, rowDecodes_sknp, rowDecodes_ldFromDt, rowDecodes_ldKey,
    rowDecodes_ldDt, rowDecodes_ldSt, rowDecodes_addI, rowDecodes_ldFont, rowDecodes_bcd, rowDecodes_store, rowDecodes_load⟩

end Sys2Proof.Machine
end

section
/-! The control transfers `Bnnn`, `5xyn` and `9xyn`, and a call with its return (spec/41_control_flow.md R131, R133, R136 to R138). -/

namespace Sys2Proof.Machine

/-- Settles O33: the call leaves its return address on the top of the stack, and the return pops it. -/
theorem returnUndoesCall : Obligations.ReturnUndoesCall := by
  intro s nnn
  refine ⟨(s.push s.pc).setPc (address nnn), rfl, fun t' sameStack => ?_⟩
  have top : t'.stack = s.stack ++ [s.pc] := sameStack
  have popped : t'.dropTop.stack = s.stack := by simp [top]
  exact ⟨t'.dropTop.setPc s.pc, execRet_push top, rfl, popped, rfl⟩

theorem exec_seReg (x y : Index16) (s : State) :
    exec (.seReg x y) s = .next (s.setPc (if s.v[x].toNat = s.v[y].toNat then s.pc + 2 else s.pc)) :=
  exec_seImm x s.v[y] s

theorem exec_sneReg (x y : Index16) (s : State) :
    exec (.sneReg x y) s = .next (s.setPc (if s.v[x].toNat = s.v[y].toNat then s.pc else s.pc + 2)) :=
  exec_sneImm x s.v[y] s

/-- Settles O35: a skip on a register is the skip on the byte it holds. -/
theorem skipOnRegisters : Obligations.SkipOnRegisters := by
  refine ⟨rowDecodes_seReg, rowDecodes_sneReg, fun s x y => ⟨?equal, ?differ⟩⟩
  case equal => exact ⟨_, exec_seReg x y s, rfl, s.setPc_frame _⟩
  case differ => exact ⟨_, exec_sneReg x y s, rfl, s.setPc_frame _⟩

theorem State.jumpOffset_eq (s : State) (x : Index16) :
    s.jumpOffset x = if s.config.jumpReg = .v0 then s.v[0] else s.v[x] := by
  unfold State.jumpOffset
  cases s.config.jumpReg <;> rfl

@[simp] theorem widen_toNat (b : Byte) : (widen b).toNat = b.toNat := BitVec.toNat_setWidth_of_le (by decide)

/-- A 12-bit address and a byte sum to at most 0x10FE, so 16 bits hold the sum (R138). -/
theorem address_add_widen_toNat (nnn : Addr12) (b : Byte) :
    (address nnn + widen b).toNat = nnn.toNat + b.toNat := by
  rw [BitVec.toNat_add_of_lt, address_toNat, widen_toNat]
  rw [address_toNat, widen_toNat]
  omega

/-- Settles O36: the next state is `State.setPc` at the natural sum. -/
theorem jumpWithOffset : Obligations.JumpWithOffset := by
  refine ⟨rowDecodes_jpOff, fun s nnn x =>
    ⟨s.setPc (address nnn + widen (s.jumpOffset x)), rfl, ?target, s.setPc_frame _⟩⟩
  case target =>
    rw [State.setPc_pc, address_add_widen_toNat, State.jumpOffset_eq, apply_ite BitVec.toNat]

end Sys2Proof.Machine
end

section
/-! The register instructions of two operands, `8xy0` to `8xyE` (spec/42_load_alu.md R153 to R161): all but the copy write a result
and then the flag (R150). -/

namespace Sys2Proof.Machine

/-- Settles O39: the next state is `State.setV` of the other register. -/
theorem copyRegister : Obligations.CopyRegister :=
  ⟨rowDecodes_ldReg, fun s x y => ⟨s.setV x s.v[y], rfl, s.setV_reg_same x _, s.setV_frame x _⟩⟩

/-! ## A result and its flag -/

theorem State.setResultFlag_flag (s : State) (x : Index16) (r : Byte) (f : Bool) :
    (s.setResultFlag x r f).v[15] = flagByte f :=
  (s.setResultFlag_reg x 15 r f).trans (if_pos rfl)

theorem State.setResultFlag_flag_toNat (s : State) (x : Index16) (r : Byte) (f : Bool) :
    (s.setResultFlag x r f).v[15].toNat = if f then 1 else 0 := by
  rw [State.setResultFlag_flag, flagByte_toNat]

/-- The flag does not overwrite a result that is not in `VF` (10_state.md R23). -/
theorem State.setResultFlag_result (s : State) {x : Index16} (hx : x ≠ 15) (r : Byte) (f : Bool) :
    (s.setResultFlag x r f).v[x] = r := by
  rw [State.setResultFlag_reg, if_neg (c := x = flagReg) hx, if_pos rfl]

theorem State.setResultFlag_frame (s : State) (x : Index16) (r : Byte) (f : Bool) :
    Frame { regs := [x, 15] } s (s.setResultFlag x r f) :=
  { Frame.refl { regs := [x, 15] } s with
    regs := fun k hk => by
      obtain ⟨notResult, notFlag⟩ : k ≠ x ∧ k ≠ 15 := by simpa using hk
      rw [State.setResultFlag_reg, if_neg (c := k = flagReg) notFlag, if_neg notResult] }

/-! ## The instructions -/

/-- A logic instruction writes a result known bit by bit and clears the flag. -/
theorem State.setResultFlag_bits (s : State) (x : Index16) {r : Byte} {bit : Fin 8 → Bool} (hr : ∀ k : Fin 8, r[k] = bit k) :
    (s.setResultFlag x r false).v[15] = 0 ∧
    (x ≠ 15 → ∀ k : Fin 8, (s.setResultFlag x r false).v[x][k] = bit k) ∧
    Frame { regs := [x, 15] } s (s.setResultFlag x r false) := by
  refine ⟨s.setResultFlag_flag x r false, fun hx k => ?_, s.setResultFlag_frame x r false⟩
  rw [State.setResultFlag_result s hx, hr]

/-- Settles O40: the result is the bitwise operation of the two registers, the flag false. -/
theorem logicClearsFlag : Obligations.LogicClearsFlag := by
  refine ⟨rowDecodes_orReg, rowDecodes_andReg, rowDecodes_xorReg, fun s x y => ⟨?or, ?and, ?xor⟩⟩
  case or => exact ⟨_, rfl, s.setResultFlag_bits x fun k => BitVec.getElem_or k.isLt⟩
  case and => exact ⟨_, rfl, s.setResultFlag_bits x fun k => BitVec.getElem_and k.isLt⟩
  case xor => exact ⟨_, rfl, s.setResultFlag_bits x fun k => BitVec.getElem_xor k.isLt⟩

/-- The wrapped sum is below the first operand exactly when the true sum passes 255 (R157). -/
theorem carry_iff (a b : Byte) : carry a b = true ↔ a.toNat + b.toNat > 255 := by
  have := a.isLt
  have := b.isLt
  rw [carry, decide_eq_true_iff, BitVec.toNat_add]
  omega

theorem noBorrow_iff (minuend subtrahend : Byte) :
    noBorrow minuend subtrahend = true ↔ minuend.toNat ≥ subtrahend.toNat :=
  decide_eq_true_iff

/-- The difference of bytes is the difference of integers modulo 256 (R158, R160). -/
theorem sub_toNat_int (a b : Byte) : ((a - b).toNat : Int) = ((a.toNat : Int) - b.toNat) % 256 := by
  have := a.isLt
  have := b.isLt
  rw [BitVec.toNat_sub]
  omega

/-- Settles O41: the sum of bytes wraps, and `carry_iff` is the flag. -/
theorem addSetsCarry : Obligations.AddSetsCarry := by
  refine ⟨rowDecodes_addReg, fun s x y =>
    ⟨s.setResultFlag x (s.v[x] + s.v[y]) (carry s.v[x] s.v[y]), rfl, ?sum, ?flag, s.setResultFlag_frame x _ _⟩⟩
  case sum =>
    intro hx
    rw [State.setResultFlag_result s hx, BitVec.toNat_add]
  case flag => simp only [State.setResultFlag_flag_toNat, carry_iff]

/-- A subtraction of either operand order writes the wrapped difference and whether no borrow was needed. -/
theorem State.setResultFlag_difference (s : State) (x : Index16) (a b : Byte) :
    (x ≠ 15 → ((s.setResultFlag x (a - b) (noBorrow a b)).v[x].toNat : Int) = ((a.toNat : Int) - b.toNat) % 256) ∧
    (s.setResultFlag x (a - b) (noBorrow a b)).v[15].toNat = (if a.toNat ≥ b.toNat then 1 else 0) ∧
    Frame { regs := [x, 15] } s (s.setResultFlag x (a - b) (noBorrow a b)) := by
  refine ⟨fun hx => ?difference, ?flag, s.setResultFlag_frame x _ _⟩
  case difference => rw [State.setResultFlag_result s hx, sub_toNat_int]
  case flag => simp only [State.setResultFlag_flag_toNat, noBorrow_iff]

/-- Settles O42: the two operand orders of one subtraction. -/
theorem subtractSetsNoBorrow : Obligations.SubtractSetsNoBorrow :=
  ⟨rowDecodes_sub, rowDecodes_subn, fun s x y =>
    ⟨⟨_, rfl, s.setResultFlag_difference x s.v[x] s.v[y]⟩, ⟨_, rfl, s.setResultFlag_difference x s.v[y] s.v[x]⟩⟩⟩

theorem State.shiftSource_eq (s : State) (x y : Index16) :
    s.shiftSource x y = if s.config.shiftSrc = .vy then s.v[y] else s.v[x] := by
  unfold State.shiftSource
  cases s.config.shiftSrc <;> rfl

theorem lowBit_toNat (b : Byte) : (if lowBit b then 1 else 0) = b.toNat % 2 := by
  rw [lowBit, BitVec.getLsbD, Nat.testBit_zero]
  simp only [decide_eq_true_eq]
  split <;> omega

theorem highBit_toNat (b : Byte) : (if highBit b then 1 else 0) = b.toNat / 128 := by
  have := b.isLt
  rw [highBit, BitVec.getLsbD, Nat.testBit_eq_decide_div_mod_eq]
  simp only [decide_eq_true_eq]
  split <;> omega

theorem exec_shr (x y : Index16) (s : State) :
    exec (.shr x y) s = .next (s.setResultFlag x (s.shiftSource x y >>> 1) (lowBit (s.shiftSource x y))) := rfl

theorem exec_shl (x y : Index16) (s : State) :
    exec (.shl x y) s = .next (s.setResultFlag x (s.shiftSource x y <<< 1) (highBit (s.shiftSource x y))) := rfl

/-- Settles O43: one bit of shift is a halving or a doubling, and the flag is the bit at the end shifted out. -/
theorem shiftsByOneBit : Obligations.ShiftsByOneBit := by
  refine ⟨rowDecodes_shr, rowDecodes_shl, fun s x y b hb => ?_⟩
  rw [exec_shr, exec_shl, State.shiftSource_eq, ← hb]
  refine ⟨⟨_, rfl, fun hx => ?halved, ?low, s.setResultFlag_frame x _ _⟩,
    ⟨_, rfl, fun hx => ?doubled, ?high, s.setResultFlag_frame x _ _⟩⟩
  case halved => rw [State.setResultFlag_result s hx, BitVec.toNat_ushiftRight, Nat.shiftRight_eq_div_pow, pow_one]
  case low => rw [State.setResultFlag_flag_toNat, lowBit_toNat]
  case doubled =>
    rw [State.setResultFlag_result s hx, BitVec.toNat_shiftLeft, Nat.shiftLeft_eq, pow_one, Nat.mul_comm]
  case high => rw [State.setResultFlag_flag_toNat, highBit_toNat]

end Sys2Proof.Machine
end

section
/-! Memory reads and the blocks of `Fx55` and `Fx65`, and the sum of `Fx1E` (spec/20_memory.md R54, R65; spec/43_index_memory.md R182,
R186, R187). -/

namespace Sys2Proof.Machine

/-- Settles O20: the answer is `State.bytesAt` inside the bounds and `boundsError` past them. -/
theorem memReadReturnsSpan : Obligations.MemReadReturnsSpan := by
  intro s a n
  refine ⟨fun inBounds => ?bytes, fun pastBounds => ⟨max a memSize, State.memRead_error pastBounds⟩⟩
  case bytes =>
    exact ⟨s.bytesAt a n, State.memRead_ok inBounds, s.bytesAt_length a n, fun _ hj => s.bytesAt_getElem? a n hj⟩

/-- Settles O46: the next state is `State.setIndex` of the sum of 16-bit words, which wraps. -/
theorem addToIndexWraps : Obligations.AddToIndexWraps := by
  refine ⟨rowDecodes_addI, fun s x => ⟨s.setIndex (s.index + widen s.v[x]), rfl, ?sum, s.setIndex_frame _⟩⟩
  case sum => rw [State.setIndex_index, BitVec.toNat_add, widen_toNat]

/-! ## The index register after a block -/

/-- Past a block inside memory the index register does not wrap. -/
theorem State.stepIndex_index_toNat {s : State} {x : Index16} (h : s.index.toNat + (x.val + 1) ≤ 4096) :
    (s.stepIndex x).index.toNat = s.index.toNat + (if s.config.indexInc then x.val + 1 else 0) := by
  rw [State.stepIndex_eq, State.setIndex_index]
  split
  · rw [BitVec.toNat_add, BitVec.toNat_ofNat]
    omega
  · rfl

theorem Frame.stepIndex {c : Changes} {s t : State} (f : Frame c s t) (x : Index16) :
    Frame { c with index := true } s (t.stepIndex x) := by
  rw [State.stepIndex_eq]
  exact { f with index := nofun }

/-! ## The block store -/

/-- The state after `Fx55` of a block inside memory (R186). -/
def State.storeBlock (s : State) (x : Index16) : State := (s.writeBytes s.index.toNat (s.getVs x)).stepIndex x

theorem exec_store_inBounds {s : State} {x : Index16} (h : s.index.toNat + (x.val + 1) ≤ 4096) :
    exec (.store x) s = .next (s.storeBlock x) :=
  (execStore_eq s x).trans (if_pos h)

theorem exec_store_pastEnd {s : State} {x : Index16} (h : 4096 < s.index.toNat + (x.val + 1)) :
    exec (.store x) s = raise (boundsError s.index.toNat) s :=
  (execStore_eq s x).trans (if_neg (Nat.not_le.mpr h))

theorem State.storeBlock_byteAt {s : State} {x : Index16} (canonical : s.Canonical)
    (h : s.index.toNat + (x.val + 1) ≤ 4096) {k : Index16} (hk : k ≤ x) :
    (s.storeBlock x).byteAt (s.index.toNat + k.val) = s.v[k] := by
  have inBlock : k.val < (s.getVs x).length := by
    rw [State.getVs_length]
    exact Nat.lt_succ_of_le hk
  have inBounds : s.index.toNat + (s.getVs x).length ≤ memSize := by
    rw [State.getVs_length]
    exact h
  rw [State.storeBlock, State.stepIndex_byteAt, State.byteAt_writeBytes_inside canonical _ _ inBounds inBlock]
  exact s.getVs_getElem x k.val inBlock

theorem State.storeBlock_frame (s : State) (x : Index16) :
    Frame { index := true, storeAt := s.index.toNat, storeLen := x.val + 1 } s (s.storeBlock x) := by
  rw [← State.getVs_length s x]
  exact (s.writeBytes_frame s.index.toNat (s.getVs x)).stepIndex x

/-- Settles O49: `execStore` writes the block when it lies in memory, and raises when it does not. -/
theorem blockStore : Obligations.BlockStore := by
  refine ⟨rowDecodes_store, fun s x => ⟨?stored, ?pastEnd⟩⟩
  case stored =>
    intro canonical inBounds
    exact ⟨s.storeBlock x, exec_store_inBounds inBounds, fun k hk => State.storeBlock_byteAt canonical inBounds hk,
      State.stepIndex_index_toNat inBounds, s.storeBlock_frame x⟩
  case pastEnd =>
    intro pastEnd
    exact ⟨max s.index.toNat memSize, exec_store_pastEnd pastEnd⟩

/-- Settles O51: a block of two registers or more covers the word at `pc`, and the fetch reads its first two bytes back. -/
theorem storedWordIsFetched : Obligations.StoredWordIsFetched := by
  intro s x canonical hx atPc inBounds
  have atIndex : (s.storeBlock x).pc = s.index := ((s.storeBlock_frame x).pc rfl).trans atPc.symm
  have fetches := State.fetch_ok (s := s.storeBlock x) (by rw [atIndex]; omega)
  have high : (s.storeBlock x).byteAt s.index.toNat = s.v[0] :=
    State.storeBlock_byteAt canonical inBounds (k := 0) (Nat.zero_le _)
  have low : (s.storeBlock x).byteAt (s.index.toNat + 1) = s.v[1] :=
    State.storeBlock_byteAt canonical inBounds (k := 1) hx
  rw [atIndex, high, low] at fetches
  exact ⟨s.storeBlock x, _, exec_store_inBounds inBounds, fetches, by rw [wordOfBytes_toNat, Nat.mul_comm]⟩

/-! ## The block load -/

/-- The state after `Fx65` of a block inside memory (R187). -/
def State.loadBlock (s : State) (x : Index16) : State := (s.setVs (s.bytesAt s.index.toNat (x.val + 1))).stepIndex x

theorem exec_load_inBounds {s : State} {x : Index16} (h : s.index.toNat + (x.val + 1) ≤ 4096) :
    exec (.load x) s = .next (s.loadBlock x) :=
  (execLoad_eq s x).trans (if_pos h)

theorem exec_load_pastEnd {s : State} {x : Index16} (h : 4096 < s.index.toNat + (x.val + 1)) :
    exec (.load x) s = raise (boundsError s.index.toNat) s :=
  (execLoad_eq s x).trans (if_neg (Nat.not_le.mpr h))

theorem State.setVs_bytesAt_reg (s : State) (a : Nat) (x k : Index16) :
    (s.setVs (s.bytesAt a (x.val + 1))).v[k] = if k ≤ x then s.byteAt (a + k.val) else s.v[k] := by
  rw [State.setVs_reg, State.bytesAt_length]
  simp only [Nat.lt_succ_iff, Fin.le_def]
  split
  case isTrue hk => exact s.bytesAt_getD _ _ (Nat.lt_succ_of_le hk) 0
  case isFalse => rfl

theorem State.loadBlock_reg (s : State) (x k : Index16) :
    (s.loadBlock x).v[k] = if k ≤ x then s.byteAt (s.index.toNat + k.val) else s.v[k] := by
  rw [State.loadBlock, State.stepIndex_eq, State.setIndex_v, State.setVs_bytesAt_reg]

theorem State.setVs_bytesAt_frame (s : State) (a : Nat) (x : Index16) :
    Frame { regs := (List.finRange 16).filter (fun k => k ≤ x) } s (s.setVs (s.bytesAt a (x.val + 1))) :=
  { Frame.refl { regs := (List.finRange 16).filter (fun k => k ≤ x) } s with
    regs := fun k hk => by
      have notLoaded : ¬ k ≤ x := by simpa using hk
      rw [State.setVs_bytesAt_reg, if_neg notLoaded] }

theorem State.loadBlock_frame (s : State) (x : Index16) :
    Frame { regs := (List.finRange 16).filter (fun k => k ≤ x), index := true } s (s.loadBlock x) :=
  (s.setVs_bytesAt_frame s.index.toNat x).stepIndex x

/-- Settles O50: `execLoad` reads the block when it lies in memory, and raises when it does not. -/
theorem blockLoad : Obligations.BlockLoad := by
  refine ⟨rowDecodes_load, fun s x => ⟨?loaded, ?pastEnd⟩⟩
  case loaded =>
    intro inBounds
    refine ⟨s.loadBlock x, exec_load_inBounds inBounds, fun k hk => ?_, State.stepIndex_index_toNat inBounds,
      s.loadBlock_frame x⟩
    rw [State.loadBlock_reg, if_pos hk]
  case pastEnd =>
    intro pastEnd
    exact ⟨max s.index.toNat memSize, exec_load_pastEnd pastEnd⟩

end Sys2Proof.Machine
end

section
/-! The sprite instruction `Dxyn` (spec/44_display.md R202 to R205). -/

namespace Sys2Proof.Machine

/-! ## What is drawn and where -/

theorem State.bytesAt_eq_map (s : State) (a n : Nat) : s.bytesAt a n = (List.range n).map fun j => s.byteAt (a + j) := by
  apply List.ext_getElem?
  intro j
  by_cases hj : j < n
  · rw [State.bytesAt_getElem? s a n hj, List.getElem?_map, List.getElem?_range hj, Option.map_some]
  · simp [hj]

theorem State.originRow_eq (s : State) (b : Byte) :
    s.originRow b = if s.config.origin = .wrap then b.toNat % 32 else b.toNat := by
  unfold State.originRow
  cases s.config.origin <;> rfl

theorem State.originColumn_eq (s : State) (b : Byte) :
    s.originColumn b = if s.config.origin = .wrap then b.toNat % 64 else b.toNat := by
  unfold State.originColumn
  cases s.config.origin <;> rfl

/-- The sprite `Dxyn` reads and the place of its top left bit: the bytes from `I` up, the origin reduced or not (R202). -/
structure State.SpriteAt (s : State) (x y : Index16) (n : Nibble) (sprite : List Byte) (row col : Nat) : Prop where
  sprite : sprite = (List.range n.toNat).map (fun j => s.byteAt (s.index.toNat + j))
  row : row = (if s.config.origin = .wrap then s.v[y].toNat % 32 else s.v[y].toNat)
  col : col = (if s.config.origin = .wrap then s.v[x].toNat % 64 else s.v[x].toNat)

/-- The state after a sprite has been drawn: the display, then the flag. -/
def State.drawn (s : State) (sprite : List Byte) (row col : Nat) : State :=
  (s.setFb (drawSprite s.fb row col sprite).1).setFlag (drawSprite s.fb row col sprite).2

theorem exec_drw_inBounds {s : State} {x y : Index16} {n : Nibble} {sprite : List Byte} {row col : Nat}
    (reads : s.SpriteAt x y n sprite row col) (h : s.index.toNat + n.toNat ≤ 4096) :
    exec (.drw x y n) s = .next (s.drawn sprite row col) := by
  obtain ⟨hsprite, hrow, hcol⟩ := reads
  refine (execDrw_eq s x y n).trans ((if_pos h).trans ?_)
  rw [State.drawn, hsprite, hrow, hcol, State.originRow_eq, State.originColumn_eq, State.bytesAt_eq_map]
  rfl

theorem exec_drw_pastEnd {s : State} {n : Nibble} (h : 4096 < s.index.toNat + n.toNat) (x y : Index16) :
    exec (.drw x y n) s = raise (boundsError s.index.toNat) s :=
  (execDrw_eq s x y n).trans (if_neg (Nat.not_le.mpr h))

/-! ## The pixels and the flag after a draw -/

section
variable (s : State) (sprite : List Byte) (row col : Nat)

theorem State.drawn_pixel (r : Fin 32) (c : Fin 64) :
    (s.drawn sprite row col).fb[r][c] = (s.fb[r][c] ^^ spriteCovers sprite row col r c) := by
  rw [pixel_eq, pixel_eq, State.drawn, State.setFlag_fb, State.setFb_fb, drawSprite_pixel, inside_fin, Bool.and_true]

theorem State.drawn_fb_twice : ((s.drawn sprite row col).drawn sprite row col).fb = s.fb :=
  drawSprite_twice s.fb row col sprite

/-- A collision is on the display, where the framebuffer has pixels. -/
theorem drawSprite_hit_iff (fb : Framebuffer) : (drawSprite fb row col sprite).2 = true ↔
    ∃ (r : Fin 32) (c : Fin 64), spriteCovers sprite row col r c = true ∧ fb[r][c] = true := by
  rw [drawSprite_hit]
  constructor
  · rintro ⟨r, c, covered, set⟩
    have onDisplay : r < 32 ∧ c < 64 := by
      by_contra off
      rw [pixel, dif_neg off] at set
      cases set
    exact ⟨⟨r, onDisplay.1⟩, ⟨c, onDisplay.2⟩, covered, (pixel_eq fb _ _).trans set⟩
  · rintro ⟨r, c, covered, set⟩
    exact ⟨r, c, covered, (pixel_eq fb r c).symm.trans set⟩

theorem State.drawn_flag : (s.drawn sprite row col).v[15] = flagByte (drawSprite s.fb row col sprite).2 :=
  (State.setFlag_reg _ 15 _).trans (if_pos rfl)

theorem State.drawn_flag_one : (s.drawn sprite row col).v[15] = 1 ↔
    ∃ (r : Fin 32) (c : Fin 64), spriteCovers sprite row col r c = true ∧ s.fb[r][c] = true := by
  rw [State.drawn_flag, ← drawSprite_hit_iff]
  cases (drawSprite s.fb row col sprite).2 <;> decide

theorem State.drawn_flag_zero
    (clear : ∀ (r : Fin 32) (c : Fin 64), spriteCovers sprite row col r c = true → s.fb[r][c] = false) :
    (s.drawn sprite row col).v[15] = 0 := by
  have noHit : (drawSprite s.fb row col sprite).2 ≠ true := by
    rw [Ne, drawSprite_hit_iff]
    rintro ⟨r, c, covered, set⟩
    rw [clear r c covered] at set
    cases set
  rw [State.drawn_flag, Bool.eq_false_of_not_eq_true noHit]
  rfl

theorem State.drawn_reg_of_ne {k : Index16} (hk : k ≠ 15) : (s.drawn sprite row col).v[k] = s.v[k] :=
  (State.setFlag_reg _ k _).trans (if_neg hk)

theorem State.drawn_frame : Frame { regs := [15], fb := true } s (s.drawn sprite row col) :=
  { Frame.refl { regs := [15], fb := true } s with
    regs := fun _ hk => s.drawn_reg_of_ne sprite row col (List.ne_of_not_mem_cons hk)
    fb := nofun }

end

/-- Settles O53: `State.drawn` when the sprite lies in memory, the error when it does not. -/
theorem drawTogglesCoveredPixels : Obligations.DrawTogglesCoveredPixels := by
  refine ⟨rowDecodes_drw, fun s x y n sprite row col hsprite hrow hcol => ⟨?drawn, ?pastEnd⟩⟩
  case drawn =>
    intro inBounds
    exact ⟨s.drawn sprite row col, exec_drw_inBounds ⟨hsprite, hrow, hcol⟩ inBounds, s.drawn_pixel sprite row col,
      (s.drawn_flag_one sprite row col).mpr, s.drawn_flag_zero sprite row col, s.drawn_frame sprite row col⟩
  case pastEnd =>
    intro pastEnd
    exact ⟨max s.index.toNat memSize, exec_drw_pastEnd pastEnd x y⟩

/-- A draw whose coordinates are not in `VF` leaves the same sprite to be drawn at the same place. -/
theorem State.drawn_spriteAt {s : State} {x y : Index16} {n : Nibble} {sprite : List Byte} {row col : Nat}
    (reads : s.SpriteAt x y n sprite row col) (hx : x ≠ 15) (hy : y ≠ 15) :
    (s.drawn sprite row col).SpriteAt x y n sprite row col := by
  obtain ⟨hsprite, hrow, hcol⟩ := reads
  refine ⟨hsprite, ?row, ?col⟩
  case row => rw [State.drawn_reg_of_ne s sprite row col hy]; exact hrow
  case col => rw [State.drawn_reg_of_ne s sprite row col hx]; exact hcol

/-- Settles O54: the second draw is the first one's again, so it toggles every covered pixel back, and it collides where the first
set a pixel. -/
theorem doubleDrawRestores : Obligations.DoubleDrawRestores := by
  intro s x y n sprite row col hx hy inBounds hsprite hrow hcol
  have first : s.SpriteAt x y n sprite row col := ⟨hsprite, hrow, hcol⟩
  refine ⟨s.drawn sprite row col, (s.drawn sprite row col).drawn sprite row col, exec_drw_inBounds first inBounds,
    exec_drw_inBounds (State.drawn_spriteAt first hx hy) inBounds, s.drawn_fb_twice sprite row col, ?flag,
    s.drawn_flag_zero sprite row col⟩
  case flag =>
    rw [State.drawn_flag_one]
    refine exists_congr fun r => exists_congr fun c => and_congr_right fun covered => ?_
    rw [State.drawn_pixel, covered, Bool.xor_true, Bool.not_eq_true']

end Sys2Proof.Machine
end

section
/-! The timer instructions `Fx07`, `Fx15` and `Fx18` (spec/45_keypad_timers.md R223, R225, R226). -/

namespace Sys2Proof.Machine

theorem State.setDt_frame (s : State) (b : Byte) : Frame { dt := true } s (s.setDt b) :=
  { Frame.refl { dt := true } s with dt := nofun }

theorem State.setSt_frame (s : State) (b : Byte) : Frame { st := true } s (s.setSt b) :=
  { Frame.refl { st := true } s with st := nofun }

/-- Settles O58: the next states are `State.setV` of the timer, and `State.setDt` and `State.setSt` of the register. -/
theorem timerMoves : Obligations.TimerMoves :=
  ⟨rowDecodes_ldFromDt, rowDecodes_ldDt, rowDecodes_ldSt, fun s x =>
    ⟨⟨s.setV x s.dt, rfl, s.setV_reg_same x s.dt, s.setV_frame x s.dt⟩,
      ⟨s.setDt s.v[x], rfl, rfl, s.setDt_frame s.v[x]⟩,
      ⟨s.setSt s.v[x], rfl, rfl, s.setSt_frame s.v[x]⟩⟩⟩

end Sys2Proof.Machine
end

section
/-! What any instruction can do, said once: it raises, or it changes at most what the state table names and keeps memory canonical
(spec/10_state.md R20; spec/40_execution_cycle.md R105, R116). -/

namespace Sys2Proof.Machine

/-! ## What each instruction may change -/

/-- The registers an instruction may write: its destination, and `VF` for the instructions of the table of 10_state.md R23. -/
def destinations : Instr → List Index16
  | .ldImm x _ | .addImm x _ | .rnd x _ | .ldReg x _ | .ldFromDt x | .ldKey x => [x]
  | .orReg x _ | .andReg x _ | .xorReg x _ | .addReg x _ | .sub x _ | .subn x _ | .shr x _ | .shl x _ => [x, 15]
  | .drw _ _ _ => [15]
  | .load x => (List.finRange 16).filter (fun k => k ≤ x)
  | .cls | .ret | .jp _ | .call _ | .ldI _ | .jpOff _ _ => []
  | .seImm _ _ | .sneImm _ _ | .seReg _ _ | .sneReg _ _ => []
  | .skp _ | .sknp _ | .ldDt _ | .ldSt _ | .addI _ | .ldFont _ | .bcd _ | .store _ => []

/-- How many bytes an instruction may store at `I`. -/
def storeLength : Instr → Nat
  | .bcd _ => 3
  | .store x => x.val + 1
  | _ => 0

/-- The state table of 10_state.md R20 read by rows: what the instruction may change. -/
def allowedChanges (i : Instr) (s : State) : Changes where
  regs := destinations i
  index := mayWriteIndex i
  pc := mayWritePc i
  stack := reachesStack i
  dt := writesDt i
  st := writesSt i
  fb := reachesDisplay i
  keys := writesKeys i
  draws := drawsByte i
  storeAt := if storesToMemory i then s.index.toNat else 0
  storeLen := storeLength i

/-- An instruction that completed: its changes are allowed ones, and memory keeps its canonical form. -/
structure Completed (i : Instr) (s t : State) : Prop where
  frame : Frame (allowedChanges i s) s t
  canonical : s.Canonical → t.Canonical

/-- The outcome of an instruction that does not raise is a next state that completes it. -/
def Completes (i : Instr) (s : State) : Prop := ∃ t, exec i s = .next t ∧ Completed i s t

/-- The outcome of an instruction that raises. -/
def Raises (i : Instr) (s : State) : Prop := canRaise i = true ∧ ∃ e, exec i s = raise e s

/-! ## The instructions with more than one outcome -/

theorem exec_ret_outcome (s : State) : Raises .ret s ∨ Completes .ret s := by
  rcases execRet_cases s with ⟨-, h⟩ | ⟨_, a, -, h⟩
  · exact .inl ⟨rfl, _, h⟩
  · exact .inr ⟨_, h, s.dropTop_setPc_frame a, id⟩

/-- A skip on a key, `Ex9E` or `ExA1`, raises or moves `pc` alone. -/
theorem skipOnKey_outcome {i : Instr} {x : Index16} {wanted : Bool} {s : State} (hexec : exec i s = skipOnKey x wanted s)
    (mayRaise : canRaise i = true) (pcOnly : allowedChanges i s = { pc := true }) : Raises i s ∨ Completes i s := by
  rcases skipOnKey_cases x wanted s with ⟨-, h⟩ | ⟨k, -, h⟩
  · exact .inl ⟨mayRaise, _, hexec.trans h⟩
  · exact .inr ⟨_, hexec.trans h, pcOnly ▸ s.setPc_frame _, id⟩

theorem exec_ldKey_completes (x : Index16) (s : State) : Completes (.ldKey x) s := by
  cases h : s.leastKey with
  | none =>
    exact ⟨s.rewind, exec_ldKey_none h x, { s.setPc_frame (s.pc - 2) with regs := fun _ _ => rfl, keys := nofun }, id⟩
  | some k => exact ⟨s.reportKey x k, exec_ldKey_some h x, { s.reportKey_frame x k with pc := nofun }, id⟩

theorem exec_drw_outcome (x y : Index16) (n : Nibble) (s : State) : Raises (.drw x y n) s ∨ Completes (.drw x y n) s := by
  by_cases h : s.index.toNat + n.toNat ≤ 4096
  · exact .inr ⟨_, exec_drw_inBounds ⟨rfl, rfl, rfl⟩ h, s.drawn_frame _ _ _, id⟩
  · exact .inl ⟨rfl, _, exec_drw_pastEnd (Nat.lt_of_not_le h) x y⟩

theorem exec_bcd_outcome (x : Index16) (s : State) : Raises (.bcd x) s ∨ Completes (.bcd x) s := by
  by_cases h : s.index.toNat + 3 ≤ 4096
  · exact .inr ⟨_, execBcd_inBounds h x, s.writeBytes_frame s.index.toNat (digits s.v[x]),
      fun hc => State.writeBytes_wf hc _ _ h⟩
  · exact .inl ⟨rfl, _, execBcd_pastEnd (Nat.lt_of_not_le h) x⟩

theorem State.stepIndex_canonical {s : State} (h : s.Canonical) (x : Index16) : (s.stepIndex x).Canonical := by
  rw [State.stepIndex_eq]
  exact h

theorem exec_store_outcome (x : Index16) (s : State) : Raises (.store x) s ∨ Completes (.store x) s := by
  by_cases h : s.index.toNat + (x.val + 1) ≤ 4096
  · have fits : s.index.toNat + (s.getVs x).length ≤ memSize := by
      rw [State.getVs_length]
      exact h
    exact .inr ⟨_, exec_store_inBounds h, s.storeBlock_frame x,
      fun hc => State.stepIndex_canonical (s := s.writeBytes _ _) (State.writeBytes_wf hc _ _ fits) x⟩
  · exact .inl ⟨rfl, _, exec_store_pastEnd (Nat.lt_of_not_le h)⟩

theorem exec_load_outcome (x : Index16) (s : State) : Raises (.load x) s ∨ Completes (.load x) s := by
  by_cases h : s.index.toNat + (x.val + 1) ≤ 4096
  · exact .inr ⟨_, exec_load_inBounds h, s.loadBlock_frame x, fun hc => State.stepIndex_canonical (s := s.setVs _) hc x⟩
  · exact .inl ⟨rfl, _, exec_load_pastEnd (Nat.lt_of_not_le h)⟩

/-! ## Every instruction -/

/-- An instruction raises, which only the seven of 60_exceptions.md R240 do, or completes. -/
theorem exec_outcome (i : Instr) (s : State) : Raises i s ∨ Completes i s := by
  cases i with
  | ret => exact exec_ret_outcome s
  | skp x => exact skipOnKey_outcome (wanted := true) rfl rfl rfl
  | sknp x => exact skipOnKey_outcome (wanted := false) rfl rfl rfl
  | drw x y n => exact exec_drw_outcome x y n s
  | bcd x => exact exec_bcd_outcome x s
  | store x => exact exec_store_outcome x s
  | load x => exact exec_load_outcome x s
  | ldKey x => exact .inr (exec_ldKey_completes x s)
  | seImm x nn => exact .inr ⟨_, exec_seImm x nn s, s.setPc_frame _, id⟩
  | sneImm x nn => exact .inr ⟨_, exec_sneImm x nn s, s.setPc_frame _, id⟩
  | seReg x y => exact .inr ⟨_, exec_seReg x y s, s.setPc_frame _, id⟩
  | sneReg x y => exact .inr ⟨_, exec_sneReg x y s, s.setPc_frame _, id⟩
  | jp | jpOff => exact .inr ⟨_, rfl, s.setPc_frame _, id⟩
  | call => exact .inr ⟨_, rfl, s.push_setPc_frame _ _, id⟩
  | cls => exact .inr ⟨_, rfl, s.setFb_frame _, id⟩
  | ldImm | addImm | ldReg | ldFromDt => exact .inr ⟨_, rfl, s.setV_frame _ _, id⟩
  | orReg | andReg | xorReg | addReg | sub | subn | shr | shl => exact .inr ⟨_, rfl, s.setResultFlag_frame _ _ _, id⟩
  | rnd => exact .inr ⟨_, rfl, s.countDraw_setV_frame _ _, id⟩
  | ldI | addI | ldFont => exact .inr ⟨_, rfl, s.setIndex_frame _, id⟩
  | ldDt => exact .inr ⟨_, rfl, s.setDt_frame _, id⟩
  | ldSt => exact .inr ⟨_, rfl, s.setSt_frame _, id⟩

/-- `exec_outcome` for a given next state. -/
theorem exec_next_cases {i : Instr} {s t : State} (h : exec i s = .next t) :
    (∃ e, t = { s with fault := some e }) ∨ Completed i s t := by
  rcases exec_outcome i s with ⟨-, e, raised⟩ | ⟨u, completes, completed⟩
  · exact .inl ⟨e, raise_next.mp (raised.symm.trans h)⟩
  · rw [completes] at h
    cases h
    exact .inr completed

/-! ## The statements about every instruction -/

/-- Settles O24: an instruction that does not raise has left the latch alone, by its frame. -/
theorem execAlwaysAnswers : Obligations.ExecAlwaysAnswers := by
  intro i s
  rcases exec_outcome i s with ⟨mayRaise, e, raised⟩ | ⟨t, completes, completed⟩
  · exact ⟨_, raised, fun cannot => absurd mayRaise (by simp [cannot])⟩
  · exact ⟨t, completes, fun _ => completed.frame.fault⟩

/-- Settles O25: an instruction that completed has not latched an error, so one that latched an error has only raised it. -/
theorem raisingChangesNothingElse : Obligations.RaisingChangesNothingElse := by
  intro i s t noFault h latched
  rcases exec_next_cases h with ⟨e, rfl⟩ | completed
  · rfl
  · exact absurd (completed.frame.fault.trans noFault) latched

theorem storeLength_eq_zero {i : Instr} (h : storesToMemory i = false) : storeLength i = 0 := by
  cases i with
  | bcd | store => cases h
  | _ => rfl

/-- Settles O26: each clause is a field of the frame; an instruction that stores nothing has an empty span. -/
theorem onlyNamedInstructionsWrite : Obligations.OnlyNamedInstructionsWrite := by
  intro i s t h
  rcases exec_next_cases h with ⟨e, rfl⟩ | ⟨frame, -⟩
  · exact ⟨rfl, rfl, rfl, rfl, rfl, rfl, fun _ _ => rfl, fun _ => rfl, fun _ => rfl, fun _ => rfl, fun _ => rfl, fun _ => rfl,
      fun _ => rfl, fun _ => rfl, fun _ => rfl⟩
  · refine ⟨frame.config, frame.run, frame.phase, frame.stop, frame.output, frame.host, fun noStore a => ?bytes, frame.fb,
      frame.keys, frame.dt, frame.st, frame.stack, frame.index, frame.pc, frame.draws⟩
    case bytes =>
      refine frame.bytes a ?_
      simp [allowedChanges, storeLength_eq_zero noStore, noStore]

theorem flag_not_mem_destinations {i : Instr} (h : mayWriteFlag i = false) : 15 ∉ destinations i := by
  cases i with
  | ldImm x | addImm x | rnd x | ldReg x | ldFromDt x | ldKey x =>
    have notFlag : x ≠ 15 := ne_of_beq_false h
    exact fun mem => notFlag (List.mem_singleton.mp mem).symm
  | load x =>
    have notFlag : x ≠ 15 := ne_of_beq_false h
    exact fun mem => notFlag (Fin.last_le_iff.mp (of_decide_eq_true (List.mem_filter.mp mem).2))
  | orReg | andReg | xorReg | addReg | sub | subn | shr | shl | drw => cases h
  | _ => exact List.not_mem_nil

/-- Settles O27: by the frame, since `VF` is no destination of theirs. -/
theorem flagWrittenOnlyByNamed : Obligations.FlagWrittenOnlyByNamed := by
  intro i s t h noFlag
  rcases exec_next_cases h with ⟨e, rfl⟩ | ⟨frame, -⟩
  · rfl
  · exact frame.regs 15 (flag_not_mem_destinations noFlag)

end Sys2Proof.Machine
end

section
/-! What every step keeps (spec/10_state.md R31, R32, R36), by the one move that the step is. -/

namespace Sys2Proof.Machine

/-! ## The moves -/

/-- One move of a core whose session goes on: an event of the host, the wait of an idle core, or a piece of the frame loop
(40_execution_cycle.md R101, R108, R112), with the guards that the invariants rest on. -/
inductive Move (s : State) : State → Prop
  | loadProgram (bytes : List Byte) (fits : bytes.length ≤ progMax) : Move s (s.writeBytes progBase bytes)
  | start : Move s { s with run := .running }
  | setKey (k : Index16) (b : Bool) : Move s (s.setKey k b)
  | setStop (b : Bool) : Move s { s with stop := b }
  | idle : Move s s
  | tick (n : Nat) : Move s { s.tick with phase := .batch n }
  | frameEnd (output : Option FrameOutput) (phase : Phase) : Move s { s with output := output, phase := phase }
  | fetchError (left : Nat) (e : Error) : Move s { s with phase := .batch left, fault := some e }
  | illegalWord (left : Nat) (e : Error) (inBounds : s.pc.toNat ≤ 4094) :
      Move s { s.advance with phase := .batch left, fault := some e }
  | execute (left : Nat) (i : Instr) (t : State) (inBounds : s.pc.toNat ≤ 4094)
      (executes : exec i { s.advance with phase := .batch left } = .next t) : Move s t

theorem move_of_hostEvent {e : HostEvent} {s t : State} (h : hostEvent e s = .next t) : Move s t := by
  rcases hostEvent_cases h with ⟨bytes, -, -, fits, rfl⟩ | ⟨-, -, -, rfl⟩ | ⟨k, b, -, rfl⟩ | ⟨b, -, rfl⟩
  · exact .loadProgram bytes fits
  · exact .start
  · exact .setKey k b
  · exact .setStop b

theorem move_of_cycle {s t : State} {left : Nat} (h : cycle { s with phase := .batch left } = .next t) : Move s t := by
  rcases cycle_cases h with ⟨-, rfl⟩ | ⟨inBounds, w, -, -, rfl⟩ | ⟨inBounds, w, i, -, -, executes⟩
  · exact .fetchError left _
  · exact .illegalWord left _ inBounds
  · exact .execute left i t inBounds executes

theorem move_of_machineMove {s t : State} (h : machineMove s = .next t) : Move s t := by
  rcases machineMove_cases h with ⟨-, rfl⟩ | ⟨-, -, n, -, rfl⟩ | ⟨-, -, rfl⟩ | ⟨-, left, -, hcycle⟩
  · exact .idle
  · exact .tick n
  · exact .frameEnd _ _
  · exact move_of_cycle hcycle

/-- A step that answers a next state found no error latched and is one move, the host's plan shortened or empty. -/
theorem move_of_step {s t : State} (h : step s = .next t) :
    s.fault = none ∧ ∃ rest, Move { s with host := rest } t := by
  obtain ⟨noFault, ⟨e, rest, -, event⟩ | ⟨rest, -, move⟩ | ⟨silent, move⟩⟩ := step_cases h
  · exact ⟨noFault, rest, move_of_hostEvent event⟩
  · exact ⟨noFault, rest, move_of_machineMove move⟩
  · exact ⟨noFault, s.host, move_of_machineMove move⟩

/-! ## Canonical memory -/

theorem exec_canonical {i : Instr} {s t : State} (h : exec i s = .next t) (hc : s.Canonical) : t.Canonical := by
  rcases exec_next_cases h with ⟨e, rfl⟩ | ⟨-, canonical⟩
  · exact hc
  · exact canonical hc

theorem Move.canonical {s t : State} (move : Move s t) (hc : s.Canonical) : t.Canonical := by
  cases move with
  | loadProgram bytes fits =>
    -- The program area ends where memory ends: 0x200 + 3584 = 4096.
    exact State.writeBytes_wf hc progBase bytes (Nat.add_le_add_left fits progBase)
  | execute left i t _ executes => exact exec_canonical executes hc
  | _ => exact hc

/-- Settles O21: only `LoadProgram`, `Fx33` and `Fx55` store, each a span inside memory. -/
theorem stepKeepsMemoryCanonical : Obligations.StepKeepsMemoryCanonical := by
  intro s t hc h
  obtain ⟨-, rest, move⟩ := move_of_step h
  exact move.canonical hc

/-! ## The ranges of the program counter and the stack -/

/-- The range of a post-fetch counter (10_state.md R36). -/
def PostFetch (a : Word) : Prop := 2 ≤ a.toNat ∧ a.toNat ≤ 4096

/-- A state in which an instruction executes: `pc` has gone past a fetched word, and every stack entry was such a counter. -/
structure State.Fetched (s : State) : Prop where
  pc : PostFetch s.pc
  stack : ∀ a ∈ s.stack, PostFetch a

theorem State.InRange.advance {s : State} (h : s.InRange) (inBounds : s.pc.toNat ≤ 4094) : s.advance.Fetched := by
  refine ⟨?_, h.2⟩
  rw [PostFetch, State.advance_pc]
  bv_omega

theorem State.Fetched.inRange {s : State} (h : s.Fetched) : s.InRange :=
  ⟨h.pc.2.trans (by decide), h.stack⟩

theorem State.Fetched.skip_inRange {s : State} (h : s.Fetched) : (s.setPc (s.pc + 2)).InRange := by
  refine ⟨?_, h.stack⟩
  obtain ⟨_, _⟩ := h.pc
  rw [State.setPc_pc]
  bv_omega

theorem State.Fetched.rewind_inRange {s : State} (h : s.Fetched) : s.rewind.InRange := by
  refine ⟨?_, h.stack⟩
  obtain ⟨_, _⟩ := h.pc
  rw [State.rewind_pc]
  bv_omega

section
variable {s t : State} (fetched : s.Fetched)
include fetched

theorem skipIf_inRange {c : Bool} (h : skipIf c s = .next t) : t.InRange := by
  cases c <;> cases h
  · exact fetched.inRange
  · exact fetched.skip_inRange

theorem skipOnKey_inRange {x : Index16} {wanted : Bool} (h : skipOnKey x wanted s = .next t) : t.InRange := by
  rcases skipOnKey_cases x wanted s with ⟨-, answer⟩ | ⟨k, -, answer⟩
  all_goals rw [answer] at h; cases h
  · exact fetched.inRange
  · split
    · exact fetched.skip_inRange
    · exact fetched.inRange

theorem execLdKey_inRange {x : Index16} (h : execLdKey x s = .next t) : t.InRange := by
  rcases execLdKey_cases x s with ⟨k, -, answer⟩ | ⟨-, answer⟩
  all_goals rw [answer] at h; cases h
  · exact fetched.inRange
  · exact fetched.rewind_inRange

theorem execRet_inRange (h : execRet s = .next t) : t.InRange := by
  rcases execRet_cases s with ⟨-, answer⟩ | ⟨rest, a, top, answer⟩
  all_goals rw [answer] at h; cases h
  · exact fetched.inRange
  · have popped : PostFetch a := fetched.stack a (by simp [top])
    exact ⟨popped.2.trans (by decide), fun b hb => fetched.stack b (List.dropLast_subset _ hb)⟩

/-- The call pushes the post-fetch counter. -/
theorem execCall_inRange {nnn : Addr12} (h : execCall nnn s = .next t) : t.InRange := by
  cases h
  refine ⟨?_, fun a ha => ?_⟩
  · rw [State.setPc_pc, address_toNat]
    omega
  · rcases List.mem_append.mp ha with below | top
    · exact fetched.stack a below
    · exact List.mem_singleton.mp top ▸ fetched.pc

/-- The greatest target is that of `Bnnn`: 0xFFF + 0xFF = 0x10FE. -/
theorem execJpOff_inRange {nnn : Addr12} {x : Index16} (h : execJpOff nnn x s = .next t) : t.InRange := by
  cases h
  refine ⟨?_, fetched.stack⟩
  rw [State.setPc_pc, address_add_widen_toNat]
  omega

theorem execJp_inRange {nnn : Addr12} (h : execJp nnn s = .next t) : t.InRange := by
  cases h
  refine ⟨?_, fetched.stack⟩
  rw [State.setPc_pc, address_toNat]
  omega

/-- An instruction that is no control transfer leaves `pc` and the stack. -/
theorem exec_inRange_of_frame {i : Instr} (noPc : mayWritePc i = false) (noStack : reachesStack i = false)
    (h : exec i s = .next t) : t.InRange := by
  rcases exec_next_cases h with ⟨e, rfl⟩ | ⟨frame, -⟩
  · exact fetched.inRange
  · rw [State.InRange, frame.pc noPc, frame.stack noStack]
    exact fetched.inRange

theorem exec_inRange {i : Instr} (h : exec i s = .next t) : t.InRange := by
  cases i with
  | seImm | sneImm | seReg | sneReg => exact skipIf_inRange fetched h
  | skp | sknp => exact skipOnKey_inRange fetched h
  | ldKey => exact execLdKey_inRange fetched h
  | ret => exact execRet_inRange fetched h
  | call => exact execCall_inRange fetched h
  | jp => exact execJp_inRange fetched h
  | jpOff => exact execJpOff_inRange fetched h
  | _ => exact exec_inRange_of_frame fetched rfl rfl h

end

theorem Move.inRange {s t : State} (move : Move s t) (h : s.InRange) : t.InRange := by
  cases move with
  | illegalWord left e inBounds => exact (h.advance inBounds).inRange
  | execute left i t inBounds executes =>
    obtain ⟨pc, stack⟩ := h.advance inBounds
    exact exec_inRange (s := { s.advance with phase := .batch left }) ⟨pc, stack⟩ executes
  | _ => exact h

/-- Settles O22: a move that is no cycle leaves `pc` and the stack, a cycle advances `pc` from at most 4094, and no instruction leaves
the ranges from there. -/
theorem stepKeepsRanges : Obligations.StepKeepsRanges := by
  intro s t inRange h
  obtain ⟨-, rest, move⟩ := move_of_step h
  exact move.inRange inRange

/-! ## The session -/

/-- What a session keeps: the configuration, a core that runs, and the draws counted so far. -/
structure KeepsSession (s t : State) : Prop where
  config : t.config = s.config
  running : s.run = .running → t.run = .running
  draws : s.draws ≤ t.draws

theorem exec_draws_of_not_drawsByte {i : Instr} {s t : State} (noDraw : drawsByte i = false) (h : exec i s = .next t) :
    t.draws = s.draws := by
  rcases exec_next_cases h with ⟨e, rfl⟩ | ⟨frame, -⟩
  · rfl
  · exact frame.draws noDraw

/-- `Cxnn` counts one draw more, every other instruction none. -/
theorem exec_draws_le {i : Instr} {s t : State} (h : exec i s = .next t) : s.draws ≤ t.draws := by
  cases i with
  | rnd =>
    cases h
    exact Nat.le_succ s.draws
  | _ => exact (exec_draws_of_not_drawsByte rfl h).ge

theorem exec_keepsSession {i : Instr} {s t : State} (h : exec i s = .next t) : KeepsSession s t := by
  have draws := exec_draws_le h
  rcases exec_next_cases h with ⟨e, rfl⟩ | ⟨frame, -⟩
  · exact ⟨rfl, id, draws⟩
  · exact ⟨frame.config, frame.run.trans, draws⟩

theorem Move.keepsSession {s t : State} (move : Move s t) : KeepsSession s t := by
  cases move with
  | start => exact ⟨rfl, fun _ => rfl, le_rfl⟩
  | execute left i t _ executes =>
    obtain ⟨config, running, draws⟩ := exec_keepsSession executes
    exact ⟨config, running, draws⟩
  | _ => exact ⟨rfl, id, le_rfl⟩

/-- Settles O23: every move keeps the session, and a step that answers a next state found no error latched. -/
theorem stepKeepsSession : Obligations.StepKeepsSession := by
  intro s t h
  obtain ⟨noFault, rest, move⟩ := move_of_step h
  obtain ⟨config, running, draws⟩ := move.keepsSession
  exact ⟨config, running, draws, noFault⟩

end Sys2Proof.Machine
end

section
/-! The cycle's errors and the wait for a key, and the frame loop around the cycles (spec/40_execution_cycle.md sections 2 and 3;
spec/60_exceptions.md R241, R243, R247, R254). -/

namespace Sys2Proof.Machine

/-! ## A cycle that raises -/

theorem State.AtCycle.step_eq {s : State} {left : Nat} (h : s.AtCycle left) :
    step s = cycle { s with phase := .batch left } :=
  step_cycle h.running h.noFault h.noHost h.slot

theorem cycle_fetchError {s : State} (h : 4095 ≤ s.pc.toNat) : cycle s = raise (boundsError s.pc.toNat) s := by
  simp only [cycle, State.fetch_error h]

theorem boundsError_of_pastEnd {a : Nat} (h : 4095 ≤ a) :
    boundsError a = .outOfBoundsMemoryAccess (if a = 4095 then 4096 else a) := by
  rw [boundsError, memSize]
  congr 1
  split <;> omega

/-- Settles O7: the cycle raises the bounds error at its fetch. -/
theorem fetchPastEndLatchesError : Obligations.FetchPastEndLatchesError := by
  intro s left atCycle pastEnd
  rw [← boundsError_of_pastEnd pastEnd, atCycle.step_eq]
  exact cycle_fetchError pastEnd

theorem cycle_illegalWord {s : State} {w : Word} (hpc : s.pc.toNat ≤ 4094)
    (hw : w.toNat = 256 * (s.byteAt s.pc.toNat).toNat + (s.byteAt (s.pc.toNat + 1)).toNat) (illegal : IllegalWord w) :
    cycle s = raise (.unsupportedOpcode w) s.advance := by
  have hfetch : s.fetch = .ok w := by rw [State.fetch_ok hpc, eq_wordOfBytes hw]
  have refused : decodeWord w = .error (.unsupportedOpcode w) := (illegalWordsAreRefused w).1.mp illegal
  simp only [cycle, hfetch, decodeExecute, refused]

/-- Settles O8: the cycle raises at its decode, `pc` past the word. -/
theorem illegalWordLatchesError : Obligations.IllegalWordLatchesError := by
  intro s left w atCycle hpc hw illegal
  rw [atCycle.step_eq]
  exact cycle_illegalWord hpc hw illegal

/-- Settles O9: with an error latched the session has ended, before any move. -/
theorem latchedErrorEndsSession : Obligations.LatchedErrorEndsSession := fun _ _ latched => step_latched latched

/-! ## The wait for a key -/

theorem decodeWord_of_ldKey {w : Word} {x : Index16} (h : w.toNat = 0xF00A + 256 * x.val) :
    decodeWord w = .ok (.ldKey x) := by
  have encoded : w = encode (.ldKey x) := by
    apply BitVec.eq_of_toNat_eq
    change w.toNat = (wordXNN 0xF#4 x 0x0A#8).toNat
    rw [wordXNN_toNat, h, BitVec.toNat_ofNat, BitVec.toNat_ofNat]
    omega
  rw [encoded]
  exact encodedInstructionDecodes (.ldKey x) rfl

/-- Settles O57: the rewind of `Fx0A` undoes the advance of the fetch. -/
theorem waitingChangesNothing : Obligations.WaitingChangesNothing := by
  intro s left w x atCycle hpc hw hkey nonePressed
  have rewound : s.pc + 2 - 2 = s.pc := BitVec.add_sub_cancel s.pc 2
  calc step s
      = exec (.ldKey x) { s with pc := s.pc + 2, phase := .batch left } :=
        (stepRunsDecodedInstruction s left w (.ldKey x) atCycle hpc hw (decodeWord_of_ldKey hkey)).1
    _ = .next { s with pc := s.pc + 2 - 2, phase := .batch left } :=
        exec_ldKey_none (s := { s with pc := s.pc + 2, phase := .batch left }) (State.leastKey_none.mpr nonePressed) x
    _ = _ := by rw [rewound]

/-! ## The frame -/

/-- With the host silent the step is the machine's own move (R100). -/
theorem step_silent {s : State} (hf : s.fault = none) (hp : s.phase ≠ .over) (hh : s.host = []) :
    step s = machineMove s := by
  rw [step_eq_nextMove hf hp, nextMove, hh]

theorem machineMove_idle {s : State} (h : s.run = .idle) : machineMove s = .next s := by
  simp only [machineMove, h]

/-- The frame's start makes the batch due, unless `FRAME_RATE = 0` (R109). -/
theorem machineMove_tick {s : State} (hr : s.run = .running) (hp : s.phase = .tick) (rate : s.config.frameRate ≠ 0) :
    machineMove s = .next { s.tick with phase := .batch s.config.instrPerFrame } := by
  simp only [machineMove, hr, hp, beginFrame, frameBatch_some.mpr ⟨rate, rfl⟩]

theorem machineMove_frameEnd {s : State} (hr : s.run = .running) (hp : s.phase = .batch 0) : machineMove s = endFrame s := by
  simp only [machineMove, hr, hp]

theorem countDown_toNat (b : Byte) : (countDown b).toNat = b.toNat - 1 := by
  unfold countDown
  split
  case isTrue h => rw [h]; rfl
  case isFalse h =>
    have : b.toNat ≠ 0 := fun h0 => h (BitVec.eq_of_toNat_eq h0)
    bv_omega

/-- Settles O10: the frame's start is `State.tick` and the phase of the batch. -/
theorem frameTickCountsDown : Obligations.FrameTickCountsDown := by
  intro s silent hp rate
  have notOver : s.phase ≠ .over := by simp [hp]
  refine ⟨fun running noFault => ?running, fun idle noFault => ?idle, fun latched t => ?latched⟩
  case running =>
    exact ⟨{ s.tick with phase := .batch s.config.instrPerFrame },
      (step_silent noFault notOver silent).trans (machineMove_tick running hp rate),
      countDown_toNat s.dt, countDown_toNat s.st, ⟨_, rfl⟩, rfl⟩
  case idle => exact (step_silent noFault notOver silent).trans (machineMove_idle idle)
  case latched =>
    obtain ⟨e, he⟩ := Option.ne_none_iff_exists'.mp latched
    rw [step_latched he]
    exact nofun

/-- No part of a cycle writes the frame's position. -/
theorem cycle_phase {s t : State} (h : cycle s = .next t) : t.phase = s.phase := by
  rcases cycle_cases h with ⟨-, rfl⟩ | ⟨-, w, -, -, rfl⟩ | ⟨-, w, i, -, -, executes⟩
  · rfl
  · rfl
  · rcases exec_next_cases executes with ⟨e, rfl⟩ | ⟨frame, -⟩
    · rfl
    · exact frame.phase

/-- The floor of a quotient, by its two bounds (00_scope.md R6, D18). -/
theorem floor_bounds {ips rate : Nat} (h : rate ≠ 0) : ips / rate * rate ≤ ips ∧ ips < (ips / rate + 1) * rate :=
  ⟨Nat.div_mul_le_self ips rate, (Nat.div_lt_iff_lt_mul (Nat.pos_of_ne_zero h)).mp (Nat.lt_succ_self _)⟩

/-- Settles O11: the tick sets the batch, and each cycle is taken with one slot less and leaves the position. -/
theorem everyCycleTakesOneSlot : Obligations.EveryCycleTakesOneSlot := by
  refine ⟨fun s t noFault silent hp running h => ?batch, fun s t left atCycle h => ?slot⟩
  case batch =>
    rw [step_silent noFault (by simp [hp]) silent] at h
    obtain ⟨rate, batch⟩ : s.config.frameRate ≠ 0 ∧ t.phase = .batch s.config.instrPerFrame := by
      rcases machineMove_cases h with ⟨idle, -⟩ | ⟨-, -, n, hn, rfl⟩ | ⟨-, ended, -⟩ | ⟨-, n, slots, -⟩
      · simp [running] at idle
      · obtain ⟨rate, rfl⟩ := frameBatch_some.mp hn
        exact ⟨rate, rfl⟩
      · simp [hp] at ended
      · simp [hp] at slots
    exact ⟨batch, fun isDefault => ⟨_, isDefault ▸ batch, floor_bounds rate⟩⟩
  case slot =>
    rw [atCycle.step_eq] at h
    exact cycle_phase h

/-- Settles O12: the frame's end is `endFrame`, whose phase is that of the stop signal. -/
theorem frameEndPresents : Obligations.FrameEndPresents := by
  intro s noFault silent running hp
  have ends : step s = endFrame s := (step_silent noFault (by simp [hp]) silent).trans (machineMove_frameEnd running hp)
  have tone : s.toneOn = decide (s.st.toNat ≠ 0) := by
    rw [State.toneOn, bne, Bool.eq_iff_iff]
    simp [← BitVec.toNat_inj]
  refine ⟨_, ends, by rw [tone], rfl, fun goesOn => ?goesOn, fun stopped => ?stopped⟩
  case goesOn => exact if_neg (by simp [goesOn])
  case stopped => simp [step, stepMove, State.ended, noFault, stopped]

end Sys2Proof.Machine
end

section
/-! The host's events, the boot and the reset (spec/20_memory.md R55; spec/40_execution_cycle.md R101, R112;
spec/10_state.md R35; spec/70_reset_and_hazards.md section 2). -/

namespace Sys2Proof.Machine

/-! ## The events -/

theorem loadProgram_fits {s : State} {bytes : List Byte} (idle : s.run = .idle) (h : bytes.length ≤ 3584) :
    loadProgram bytes s = .next (s.writeBytes 0x200 bytes) := by
  rw [loadProgram, idle]
  exact if_pos h

theorem loadProgram_tooLarge {s : State} {bytes : List Byte} (idle : s.run = .idle) (h : 3584 < bytes.length) :
    loadProgram bytes s = .fault .programTooLarge := by
  rw [loadProgram, idle]
  exact if_neg (Nat.not_le.mpr h)

theorem loadProgram_running {s : State} (bytes : List Byte) (running : s.run = .running) :
    loadProgram bytes s = .refused .hostEventNotEnabled := by
  rw [loadProgram, running]

/-- The program area ends where memory ends. -/
theorem State.byteAt_program {s : State} {bytes : List Byte} (canonical : s.Canonical) (h : bytes.length ≤ 3584) (j : Nat)
    (hj : j < bytes.length) : (s.writeBytes 0x200 bytes).byteAt (0x200 + j) = bytes[j] :=
  State.byteAt_writeBytes_inside canonical 0x200 bytes (Nat.add_le_add_left h 0x200) hj

theorem step_loadProgram {s : State} {bytes : List Byte} {rest : List HostMove} (hf : s.fault = none) (hp : s.phase ≠ .over)
    (hh : s.host = .event (.loadProgram bytes) :: rest) (idle : s.run = .idle) (fits : bytes.length ≤ 3584) :
    step s = .next (State.writeBytes { s with host := rest } 0x200 bytes) :=
  (step_event hf hp hh).trans (loadProgram_fits idle fits)

/-- Settles O13: the event writes the program's span, or is refused with nothing changed. -/
theorem loadProgramCopies : Obligations.LoadProgramCopies := by
  intro s bytes rest noFault notOver hh
  have event : step s = loadProgram bytes { s with host := rest } := step_event noFault notOver hh
  refine ⟨fun canonical idle fits => ?copied, fun idle tooLong => ?tooLarge, fun running => ?running⟩
  case copied =>
    exact ⟨State.writeBytes { s with host := rest } 0x200 bytes, step_loadProgram noFault notOver hh idle fits,
      State.byteAt_program (s := { s with host := rest }) canonical fits,
      fun a outside => State.byteAt_writeBytes_outside { s with host := rest } 0x200 bytes outside, rfl⟩
  case tooLarge => exact event.trans (loadProgram_tooLarge idle tooLong)
  case running => exact event.trans (loadProgram_running bytes running)

theorem start_idle {s : State} (idle : s.run = .idle) (rate : s.config.frameRate ≠ 0) :
    start s = .next { s with run := .running } := by
  simp only [start, idle, frameBatch_some.mpr ⟨rate, rfl⟩]

theorem start_rateZero {s : State} (idle : s.run = .idle) (rate : s.config.frameRate = 0) :
    start s = .refused .frameRateZero := by
  simp only [start, idle, frameBatch_none.mpr rate]

theorem start_running {s : State} (running : s.run = .running) : start s = .refused .hostEventNotEnabled := by
  rw [start, running]

theorem step_start {s : State} {rest : List HostMove} (hf : s.fault = none) (hp : s.phase ≠ .over)
    (hh : s.host = .event .start :: rest) (idle : s.run = .idle) (rate : s.config.frameRate ≠ 0) :
    step s = .next { s with host := rest, run := .running } :=
  (step_event hf hp hh).trans (start_idle idle rate)

/-- Settles O14: one lemma an answer of `start`. -/
theorem startRunsTheCore : Obligations.StartRunsTheCore := by
  intro s rest noFault notOver hh
  have event : step s = start { s with host := rest } := step_event noFault notOver hh
  exact ⟨fun idle rate => step_start noFault notOver hh idle rate, fun idle rate => event.trans (start_rateZero idle rate),
    fun running => event.trans (start_running running)⟩

/-! ## The boot -/

theorem run_of_step {M : Host.Core} {s t : M.State} (h : M.step s = .next t) (k : Nat) : M.run (k + 1) s = M.run k t := by
  rw [Host.Core.run, h]

theorem core_run_of_step {s t : State} (h : step s = .next t) (k : Nat) :
    Host.Core.run core (k + 1) s = Host.Core.run core k t :=
  run_of_step (M := core) (s := s) (t := t) h k

/-- The reset state, a program in memory and the first frame's batch due. -/
def booted (c : Config) (bytes : List Byte) : State :=
  { (State.resetWith c).writeBytes 0x200 bytes with run := .running, phase := .batch c.instrPerFrame }

theorem boot_run {c : Config} {bytes : List Byte} (rate : c.frameRate ≠ 0) (fits : bytes.length ≤ 3584) :
    Host.Core.run core 3 { State.resetWith c with host := [.event (.loadProgram bytes), .event .start] } =
      .next (booted c bytes) := by
  have notOver : Phase.tick ≠ .over := nofun
  have loads := step_loadProgram
    (s := { State.resetWith c with host := [.event (.loadProgram bytes), .event .start] }) rfl notOver rfl rfl fits
  have starts := step_start
    (s := { (State.resetWith c).writeBytes 0x200 bytes with host := [.event .start] }) rfl notOver rfl rfl rate
  have ticks : step { (State.resetWith c).writeBytes 0x200 bytes with run := .running } = .next (booted c bytes) :=
    (step_silent rfl notOver rfl).trans (machineMove_tick rfl rfl rate)
  exact (core_run_of_step loads 2).trans ((core_run_of_step starts 1).trans (core_run_of_step ticks 0))

/-- Settles O16: two events and a tick, from which the timers, zero at reset, do not fall. -/
theorem bootReachesFirstCycle : Obligations.BootReachesFirstCycle := by
  intro c bytes rate fits
  refine ⟨booted c bytes, boot_run rate fits, rfl, rfl, rfl, rfl, fun left hleft => ?slot, rfl, rfl, rfl,
    State.byteAt_program (s := State.resetWith c) (reset_memory_wf c) fits⟩
  case slot => exact ⟨rfl, rfl, rfl, congrArg Phase.batch hleft⟩

/-! ## The reset -/

/-- Nothing has written memory, so every byte reads as the reset contents (10_state.md R35). -/
theorem reset_byteAt (c : Config) (a : Nat) : (State.resetWith c).byteAt a = blankByte c a := rfl

theorem blankByte_font {c : Config} (h : c.fontData.length = 80) (j : Nat) (hj : j < c.fontData.length) :
    blankByte c (0x050 + j) = c.fontData[j] := by
  have inFont : fontAddr ≤ 0x050 + j ∧ 0x050 + j < fontAddr + fontLen := by
    simp only [fontAddr, fontLen]
    omega
  rw [blankByte, if_pos inFont, fontAddr, Nat.add_sub_cancel_left, List.getD_eq_getElem _ _ hj]

theorem blankByte_outside (c : Config) {a : Nat} (h : a < 0x050 ∨ 0x0A0 ≤ a) : blankByte c a = c.resetFill := by
  have notInFont : ¬ (fontAddr ≤ a ∧ a < fontAddr + fontLen) := by
    simp only [fontAddr, fontLen]
    omega
  rw [blankByte, if_neg notInFont]

/-- Settles O17: the fields of `State.resetWith`, and `blankByte` for memory. -/
theorem resetLeavesListedValues : Obligations.ResetLeavesListedValues := by
  rintro c s rfl fontLength
  refine ⟨rfl, rfl, rfl, rfl, rfl, rfl, rfl, blankFb_pixel, fun k => ⟨?register, rfl⟩, fun j hj => ?font,
    fun a outside => ?fill⟩
  case register => exact Vector.getElem_replicate k.isLt
  case font => exact (reset_byteAt c (0x050 + j)).trans (blankByte_font fontLength j hj)
  case fill => exact (reset_byteAt c a).trans (blankByte_outside c outside)

theorem reset_inRange (c : Config) : (State.resetWith c).InRange := ⟨by simp [State.resetWith, progBase], nofun⟩

/-- Settles O18: no memory is listed and no entry stacked at reset, and the default configuration is a closed term. -/
theorem resetMeetsInvariants : Obligations.ResetMeetsInvariants :=
  ⟨fun c => ⟨reset_memory_wf c, reset_inRange c⟩, reset_memory_wf defaultConfig, reset_inRange defaultConfig, by decide,
    rfl⟩

end Sys2Proof.Machine
end
